-- ==== Sys2Proof/Word.lean ====
section
/-! DEFINITION. The machine word: every host-visible register and every word of the generator state is a 32-bit
pattern (00_scope.md R6, R12; 10_state.md, section 3). -/

namespace Sys2Proof

/-- A 32-bit word, bit 0 the least significant (R9). Arithmetic on it wraps, which is `trunc_32` of R10. -/
abbrev Word := BitVec 32

end Sys2Proof
end

