-- ==== Sys2Proof/Syntax.lean ====
section
/-! DEFINITION. What the two agents say: the five commands of the engine (30_encoding.md R91), the names of the
registers (20_memory.md R60) and the transactions of a host program (30_encoding.md R100, R101). -/

namespace Sys2Proof

/-- The five commands, one constructor per row of spec/opcode_table.json (R91). A command carries no operand field:
every operand comes from an operand register (R90). -/
inductive Instr where
  | seed
  | random
  | getrandbits
  | randbelow
  | randint
deriving DecidableEq, Repr

/-- Why a command word is ILLEGAL (R93): the two causes R241 lists. Both are reported to the host by the one code
ILLEGAL_COMMAND. -/
inductive DecodeError where
  /-- RSV, bits 31:4, is not all zero. -/
  | reservedField
  /-- RSV is zero and OP is 0x0 or one of 0x6 to 0xF. -/
  | reservedOpcode
deriving DecidableEq, Repr

/-- The host-visible registers by name (R99): the names of the register map of R60. -/
inductive Reg where
  | cmd
  | status
  | argK
  | keyLen
  | info
  | key (j : Nat)
  | opa (w : Nat)
  | opb (w : Nat)
  | out (w : Nat)
deriving DecidableEq, Repr

/-- A host access as the platform's bus carries it: a byte address and a width in bytes. R65 gives a meaning only to
4 bytes at a multiple of 4; the type holds the other accesses too, so that the model can refuse them by name. -/
structure Access where
  addr  : Nat
  bytes : Nat
deriving DecidableEq, Repr

/-- One instruction of a host program: the two transactions of R100, and the POLL loop of R101 (the only loop a host
program has, so the only pseudo-instruction that does not expand into a fixed list of the other two). -/
inductive HostOp where
  /-- `WR <reg>, <value>`. -/
  | write (a : Access) (v : Word)
  /-- `RD <reg> -> <name>`. -/
  | read (a : Access)
  /-- `POLL`: read STATUS, again and again, until a read has bit 0 (BUSY) clear. -/
  | poll
deriving DecidableEq, Repr

/-- The two agents of a model of one engine (70_reset_and_hazards.md R280). -/
inductive Agent where
  | host
  | engine
deriving DecidableEq, Repr

/-- One choice of the schedule (R281): which agent takes the next point of the total order of R71, or the platform's
reset (R270), or a transaction of a second host, which R73 forbids. -/
inductive Turn where
  | host
  | engine
  | reset
  | secondHost
deriving DecidableEq, Repr

end Sys2Proof
end

