-- ==== Sys2Proof/Decode.lean ====
section
/-! DEFINITION. The command word CMD32 (30_encoding.md R90 to R94): a decoder, total on every 32-bit word, and the
encoder of the five commands. -/

namespace Sys2Proof

/-- OP, bits 3:0 of a command word (R90). -/
def opField (w : Word) : BitVec 4 := w.extractLsb' 0 4

/-- RSV, bits 31:4 of a command word (R90). -/
def rsvField (w : Word) : BitVec 28 := w.extractLsb' 4 28

/-- The command an OP value selects (R91); the reserved values select none. -/
def commandOfOp (op : BitVec 4) : Option Instr :=
  if op = 0x1#4 then some .seed
  else if op = 0x2#4 then some .random
  else if op = 0x3#4 then some .getrandbits
  else if op = 0x4#4 then some .randbelow
  else if op = 0x5#4 then some .randint
  else none

/-- `Decode(w)` of R92; the ILLEGAL of R92 is an error that names its cause (R93). -/
def decode (w : Word) : Except DecodeError Instr :=
  if rsvField w ≠ 0#28 then .error .reservedField
  else match commandOfOp (opField w) with
    | some i => .ok i
    | none   => .error .reservedOpcode

/-- The OP value of a command (R91). -/
def opOf : Instr → BitVec 4
  | .seed        => 0x1#4
  | .random      => 0x2#4
  | .getrandbits => 0x3#4
  | .randbelow   => 0x4#4
  | .randint     => 0x5#4

/-- The command word of a command: RSV = 0 above OP (R90). -/
def encode (i : Instr) : Word := 0#28 ++ opOf i

/-- The command the decoder reads from an instruction of `nbits` bits `w`, bit 0 the least significant. A command is
one 32-bit word (R90): bits at or above `nbits` are 0, and no instruction has more than 32 bits (R94). -/
def decodeTableWord (nbits w : Nat) : Option Instr :=
  if nbits ≤ 32 ∧ w < 2 ^ nbits then
    match decode (BitVec.ofNat 32 w) with
    | .ok i    => some i
    | .error _ => none
  else none

end Sys2Proof
end

