-- ==== Sys2Proof/Machine/Arith.lean ====
section
/-! DEFINITION. The arithmetic notation of 00_scope.md R9 to R11 over exact integers: widths, two's complement, bit
length, multi-word values, and the counted loop of the pseudocode. -/

namespace Sys2Proof.Machine

/-- `trunc_N(x)` of R9 for any integer: the non-negative residue modulo 2^N. -/
def truncTo (n : Nat) (x : Int) : Nat := (x % (2 ^ n : Int)).toNat

/-- `signed_N(v)` of R9: the pattern v read as a two's-complement integer. -/
def signedOf (n : Nat) (v : Nat) : Int := if v < 2 ^ (n - 1) then (v : Int) else (v : Int) - (2 ^ n : Int)

/-- `bitlen(x)` of R9: the number of bits without leading zeros, bitlen(0) = 0. -/
def bitlen (x : Nat) : Nat := if x = 0 then 0 else Nat.log2 x + 1

/-- `ceil(x / y)` of R10, for y > 0. -/
def ceilDiv (x y : Nat) : Nat := (x + (y - 1)) / y

/-- Word `w` of a multi-word register; a slot that does not exist reads as 0 (20_memory.md R62). -/
def wordAt (ws : List Word) (w : Nat) : Word := ws.getD w 0#32

/-- The value of a multi-word register, word 0 the least significant (20_memory.md R66): the sum over w of
ws[w] * 2^(32*w) (10_state.md R43). -/
def wideOf : List Word → Nat
  | []      => 0
  | w :: ws => w.toNat + 2 ^ 32 * wideOf ws

/-- The `n` words of a value, OUT[w] <- (v >> (32*w)) and 0xFFFFFFFF (42_float_and_bits.md R190). -/
def wordsOf (n : Nat) (v : Nat) : List Word := (List.range n).map fun w => BitVec.ofNat 32 (v / 2 ^ (32 * w))

/-- The pseudocode's `for k in 0..n-1` (R11): the body runs on k = 0 first. -/
def forRange {α : Type} (n : Nat) (body : Nat → α → α) (a : α) : α :=
  match n with
  | 0     => a
  | k + 1 => body k (forRange k body a)

end Sys2Proof.Machine
end

