-- ==== Sys2Proof/Config.lean ====
section
/-! DEFINITION. The constants the algorithm fixes (00_scope.md R6), the parameters an implementation fixes (R7), and
the one value the spec leaves free (20_memory.md R68). -/

namespace Sys2Proof

/-- INIT_SEED of R6. -/
def initSeed : Word := 19650218#32
/-- INIT_MULT of R6. -/
def initMult : Word := 1812433253#32
/-- MIX1_MULT of R6. -/
def mix1Mult : Word := 1664525#32
/-- MIX2_MULT of R6. -/
def mix2Mult : Word := 1566083941#32
/-- STATE0_FINAL of R6. -/
def state0Final : Word := 0x80000000#32
/-- MATRIX_A of R6. -/
def matrixA : Word := 0x9908B0DF#32
/-- UPPER_MASK of R6: the top bit. -/
def upperMask : Word := 0x80000000#32
/-- LOWER_MASK of R6: the lower 31 bits. -/
def lowerMask : Word := 0x7FFFFFFF#32
/-- TEMPER_B of R6. -/
def temperB : Word := 0x9D2C5680#32
/-- TEMPER_C of R6. -/
def temperC : Word := 0xEFC60000#32

/-- The parameters of R7, which the spec leaves to the implementation and which a model takes as arguments. They are
plain data beside the state, changed by no step, so that every claim about every state is a claim about every
configuration (log entry 1). -/
structure Config where
  /-- KEYMAX, the number of key-word registers. -/
  keymax : Nat
  /-- XWORDS, the number of 32-bit words of each wide register. -/
  xwords : Nat
  /-- BASE, the platform address of offset 0x0000 (R61). -/
  base   : Nat
deriving DecidableEq, Repr

/-- XW = 32 * XWORDS, the wide width in bits (R7). -/
def Config.xw (c : Config) : Nat := 32 * c.xwords

/-- KMAX = XW, the largest bit width GETRANDBITS accepts (R8). -/
def Config.kmax (c : Config) : Nat := c.xw

/-- The configuration of `Machine.State.reset` (DESIGN CHOICE, log entry 1): XWORDS = 2 and KEYMAX >= 2 are what every
vector of 95_test_vectors.md assumes; 8 key words hold the longest key of V-SEED-1. -/
def Config.default : Config := { keymax := 8, xwords := 2, base := 0 }

/-- FREE VALUE (log entry 2): what a read of OUT[w] made while a command is in flight returns, "a free draw, under no
law" (R68), by the BASE of the engine, w, and how many such reads that engine answered before. It has no body: nothing can
be proved of its value. That it is a function of these three, so that two engines at different BASE have unrelated draws
and two runs of one engine have the same ones, is a DESIGN CHOICE (log entries 2 and 16). -/
opaque Config.freeOut : Nat → Nat → Nat → Word

end Sys2Proof
end

