-- ==== Sys2Proof/Machine/State.lean ====
section
/-! DEFINITION. The state of one engine and of the host that drives it, as plain data (10_state.md R30 to R50), and its
reset value (R50, 70_reset_and_hazards.md R270). -/

namespace Sys2Proof.Machine

/-- The outcome codes of STATUS.ERR (R36). The codes 5 to 15 are reserved and never produced, so they have no
constructor (93_implementation_defined.md ID-14). -/
inductive ErrCode where
  /-- 0: the last command write that was not dropped was accepted. -/
  | ok
  /-- 1 (R243). -/
  | invalidArgument
  /-- 2 (R242). -/
  | notSeeded
  /-- 3 (R243). -/
  | operandRange
  /-- 4 (R241). -/
  | illegalCommand
deriving DecidableEq, Repr

/-- Why the machine is stuck. -/
inductive Fault where
  /-- Raised by `engineTurn` when BUSY = 1 and CUR_OP = none: the engine is enabled and no rule says which step it
  takes (R282 chooses by CUR_OP). No run reaches it, since R240 and R246 write the two together. Safe: the machine
  stops where the spec has no step. -/
  | noCommandInFlight
deriving DecidableEq, Repr

/-- Why the model gives a step no meaning. Each is a situation the spec puts outside the interface. -/
inductive Refusal where
  /-- Raised by no arm of `exec`: every command has its meaning. Safe. -/
  | notModelled (mnemonic : String)
  /-- Raised by `locate` for a host access of another width than 32 bits: R65, "a model refuses it". Safe. -/
  | accessWidth
  /-- Raised by `locate` for a host access at an offset that is not a multiple of 4: R65, "a model refuses it". Safe. -/
  | accessAlignment
  /-- Raised by `locate` for a host access outside the window of R60: it is no transaction of this engine, and the
  spec says nothing of what else the platform holds, nor of a host that drives several engines (log entries 7 and 16).
  Safe. -/
  | outsideWindow
  /-- Raised by `takeTurn` for a transaction of a second host on the same engine: R73, "a model with more than one host
  per engine is refused". Safe. -/
  | secondHost
deriving DecidableEq, Repr

/-- GeneratorState (R31, R32): "exactly 624 unsigned 32-bit words plus an integer index in [0, 624]". -/
structure GeneratorState where
  /-- MT[0..623] (R31, R64). -/
  mt  : Vector Word 624
  /-- IDX (R32). -/
  idx : Nat
deriving DecidableEq, Repr

/-- All the state of R30, then the fields the model adds for the host agent and the schedule (R280, R281). STATUS, INFO
and CMD are not stored: STATUS is a view of BUSY, SEEDED, OVR and ERR (R35), INFO a view of the configuration (R41),
and CMD has no storage (R38). -/
structure State where
  /-- The configuration (R7); no step changes it. -/
  cfg       : Config
  /-- MT and IDX. -/
  gen       : GeneratorState
  /-- SEEDED (R33). -/
  seeded    : Bool
  /-- BUSY (R34). -/
  busy      : Bool
  /-- CUR_OP (R34). -/
  curOp     : Option Instr
  /-- CUR_K (R34). -/
  curK      : Nat
  /-- CUR_D (R34). -/
  curD      : Nat
  /-- CUR_BASE (R34). -/
  curBase   : Int
  /-- STATUS.OVR (R37). -/
  ovr       : Bool
  /-- STATUS.ERR (R36). -/
  err       : ErrCode
  /-- ARG_K (R39). -/
  argK      : Word
  /-- KEY_LEN (R40). -/
  keyLen    : Word
  /-- KEY[0..KEYMAX-1] (R42). -/
  key       : List Word
  /-- OPA[0..XWORDS-1] (R43). -/
  opa       : List Word
  /-- OPB[0..XWORDS-1] (R44). -/
  opb       : List Word
  /-- OUT[0..XWORDS-1] (R45). -/
  out       : List Word
  /-- The host agent: what its program has yet to perform (R100, R281). -/
  program   : List HostOp
  /-- The values its RD transactions returned, oldest first (R284). -/
  results   : List Word
  /-- The choices of the schedule that are already fixed, the next one first (R281, log entry 3). -/
  schedule  : List Turn
  /-- The agent whose step is under way (log entry 4). -/
  turn      : Agent
  /-- How many free draws were taken (R68, log entry 2). -/
  freeDraws : Nat
deriving DecidableEq, Repr

/-- MT and IDX after reset: the spec leaves them unspecified (R50); zero is the model's choice
(DESIGN CHOICE, log entry 5). -/
def GeneratorState.unwritten : GeneratorState := { mt := Vector.replicate 624 0#32, idx := 0 }

/-- The engine of a given configuration right after reset (R50), with a host that has no program. The CUR_ fields,
which R50 leaves unspecified, and the model's own fields are DESIGN CHOICE (log entry 5). -/
def State.resetWith (c : Config) : State where
  cfg       := c
  gen       := GeneratorState.unwritten
  seeded    := false
  busy      := false
  curOp     := none
  curK      := 0
  curD      := 0
  curBase   := 0
  ovr       := false
  err       := .ok
  argK      := 0#32
  keyLen    := 0#32
  key       := List.replicate c.keymax 0#32
  opa       := List.replicate c.xwords 0#32
  opb       := List.replicate c.xwords 0#32
  out       := List.replicate c.xwords 0#32
  program   := []
  results   := []
  schedule  := []
  turn      := .host
  freeDraws := 0

/-- The machine right after reset (R50), in the configuration of log entry 1. -/
def State.reset : State := State.resetWith Config.default

end Sys2Proof.Machine
end

