-- ==== Sys2Proof/Machine/Generator.lean ====
section
/-! DEFINITION. The core generator (41_core_generator.md R150 to R155): reading and writing MT, the twist, tempering
and NextWord, the one primitive every production command is built on. -/

namespace Sys2Proof.Machine

/-- `MT[i]` (R11). Every index the rules form is below 624. -/
def readMT (mt : Vector Word 624) (i : Nat) : Word := mt.toList.getD i 0#32

/-- `MT[i] <- v` (R11). -/
def writeMT (mt : Vector Word 624) (i : Nat) (v : Word) : Vector Word 624 :=
  ⟨⟨mt.toList.set i v⟩, by simp⟩

/-- The combined value y of R151: the top bit of one word and the low 31 bits of the next. -/
def twistCombine (cur nxt : Word) : Word := (cur &&& upperMask) ||| (nxt &&& lowerMask)

/-- The new word of R151: the partner word, always, with y shifted right by one, and with the matrix constant where y
is odd (90_conflicts.md C1). -/
def twistWord (cur nxt partner : Word) : Word :=
  let y := twistCombine cur nxt
  let v := partner ^^^ (y >>> 1)
  if y.getLsbD 0 then v ^^^ matrixA else v

/-- Iteration i of the pass of R151, in place: every read sees MT as the iterations before left it (R153). -/
def twistStep (i : Nat) (mt : Vector Word 624) : Vector Word 624 :=
  writeMT mt i (twistWord (readMT mt i) (readMT mt ((i + 1) % 624)) (readMT mt ((i + 397) % 624)))

/-- `Twist()` (R151): one forward pass, in place. -/
def twist (mt : Vector Word 624) : Vector Word 624 := forRange 624 twistStep mt

/-- The three-loop form R153 gives for implementations that avoid the modulus. -/
def twistThreeLoops (mt : Vector Word 624) : Vector Word 624 :=
  let mt := forRange 227 (fun i m => writeMT m i (twistWord (readMT m i) (readMT m (i + 1)) (readMT m (i + 397)))) mt
  let mt := forRange 396 (fun k m =>
    writeMT m (227 + k) (twistWord (readMT m (227 + k)) (readMT m (227 + k + 1)) (readMT m (227 + k - 227)))) mt
  writeMT mt 623 (twistWord (readMT mt 623) (readMT mt 0) (readMT mt 396))

/-- `Temper(y)` (R152): each step uses the y the step before produced. -/
def temper (y : Word) : Word :=
  let y := y ^^^ (y >>> 11)
  let y := y ^^^ ((y <<< 7) &&& temperB)
  let y := y ^^^ ((y <<< 15) &&& temperC)
  y ^^^ (y >>> 18)

/-- The first transition of R150: at IDX = 624, Twist() and IDX <- 0. -/
def refill (g : GeneratorState) : GeneratorState :=
  if g.idx = 624 then { mt := twist g.mt, idx := 0 } else g

/-- `NextWord()` (R150): the tempered word and the state it leaves. -/
def nextWord (g : GeneratorState) : Word × GeneratorState :=
  let g := refill g
  (temper (readMT g.mt g.idx), { g with idx := g.idx + 1 })

/-- The next `n` words of the stream, the first drawn first, and the state they leave. -/
def drawWords : Nat → GeneratorState → List Word × GeneratorState
  | 0, g     => ([], g)
  | n + 1, g =>
    let (x, g')   := nextWord g
    let (xs, g'') := drawWords n g'
    (x :: xs, g'')

end Sys2Proof.Machine
end

