-- ==== Sys2Proof/Machine/Flags.lean ====
section
/-! DEFINITION. The status and information words a host reads (10_state.md R35, R36, R41). The engine has no condition
codes (R47): the fields of STATUS are its only flags. -/

namespace Sys2Proof.Machine

/-- The 4-bit code of an outcome (R36). -/
def ErrCode.code : ErrCode → BitVec 4
  | .ok              => 0x0#4
  | .invalidArgument => 0x1#4
  | .notSeeded       => 0x2#4
  | .operandRange    => 0x3#4
  | .illegalCommand  => 0x4#4

/-- STATUS as a host reads it (R35): 31:8 zero, 7:4 ERR, 3 zero, 2 OVR, 1 SEEDED, 0 BUSY. -/
def State.statusWord (s : State) : Word :=
  0#24 ++ s.err.code ++ 0#1 ++ BitVec.ofBool s.ovr ++ BitVec.ofBool s.seeded ++ BitVec.ofBool s.busy

/-- INFO as a host reads it (R41): 31:27 zero, 26:16 XWORDS, 15:11 zero, 10:0 KEYMAX. -/
def Config.infoWord (c : Config) : Word :=
  0#5 ++ BitVec.ofNat 11 c.xwords ++ 0#5 ++ BitVec.ofNat 11 c.keymax

/-- The bit of a value written to STATUS that clears OVR (R35): bit 2. -/
def clearsOverrun (v : Word) : Bool := v.getLsbD 2

/-- STATUS.BUSY of a word read from STATUS (R35): bit 0. -/
def busyBit (v : Word) : Bool := v.getLsbD 0

/-- STATUS.ERR of a word read from STATUS (R35): bits 7:4. -/
def errField (v : Word) : BitVec 4 := v.extractLsb' 4 4

end Sys2Proof.Machine
end

