-- ==== Sys2Proof/Machine/Operands.lean ====
section
/-! DEFINITION. Operand assembly (30_encoding.md R95 to R97): every operand of every command comes from the operand
registers, read here and nowhere else. -/

namespace Sys2Proof.Machine

/-- k = signed_32(ARG_K) (R95). -/
def State.kVal (s : State) : Int := signedOf 32 s.argK.toNat

/-- OPA_val = signed_XW(OPA) (R96): the n of RANDBELOW, the a of RANDINT. -/
def State.opaVal (s : State) : Int := signedOf s.cfg.xw (wideOf s.opa)

/-- OPB_val = signed_XW(OPB) (R96): the b of RANDINT. -/
def State.opbVal (s : State) : Int := signedOf s.cfg.xw (wideOf s.opb)

/-- L = KEY_LEN, an unsigned integer (R97). -/
def State.keyCount (s : State) : Nat := s.keyLen.toNat

/-- The key words key[0..L-1] of SEED (R97); KEY[j] for j >= L is not read. -/
def State.keyWords (s : State) : List Word := (List.range s.keyCount).map (wordAt s.key)

end Sys2Proof.Machine
end

