-- ==== Sys2Proof/WellFormed.lean ====
section
/-! DEFINITION. The checks on what is handed to the machine from outside: the configuration (00_scope.md R7,
20_memory.md R61), the accesses of a host program (R65, R60) and the commands. -/

namespace Sys2Proof

/-- The bounds of R7 on KEYMAX and XWORDS, and R61's "a multiple of 0x8000" on BASE. -/
def Config.wf (c : Config) : Bool :=
  decide (1 ≤ c.keymax) && decide (c.keymax ≤ 1024) && decide (2 ≤ c.xwords) && decide (c.xwords ≤ 1024)
    && decide (c.base % 0x8000 = 0)

/-- R65: a host transaction is a 32-bit access. -/
def Access.isWord (a : Access) : Bool := decide (a.bytes = 4)

/-- R65: at an offset that is a multiple of 4. -/
def Access.isAligned (a : Access) : Bool := decide (a.addr % 4 = 0)

/-- R60, R61: the address lies in the window of 0x8000 bytes at BASE. -/
def Access.inWindow (c : Config) (a : Access) : Bool :=
  decide (c.base ≤ a.addr) && decide (a.addr < c.base + 0x8000)

/-- An access the interface gives a meaning to. -/
def Access.wf (c : Config) (a : Access) : Bool := a.isWord && a.isAligned && a.inWindow c

/-- A host instruction whose access, if it names one, is well formed (the host's duty of R76). -/
def HostOp.wf (c : Config) : HostOp → Bool
  | .write a _ => a.wf c
  | .read a    => a.wf c
  | .poll      => true

/-- The registers the configuration gives the window (R60): an array slot exists below KEYMAX or XWORDS only (R62). -/
def Reg.existsIn (c : Config) : Reg → Bool
  | .cmd    => true
  | .status => true
  | .argK   => true
  | .keyLen => true
  | .info   => true
  | .key j  => decide (j < c.keymax)
  | .opa w  => decide (w < c.xwords)
  | .opb w  => decide (w < c.xwords)
  | .out w  => decide (w < c.xwords)

/-- The registers a host may write (R60, "RW"). -/
def Reg.isOperand : Reg → Bool
  | .cmd    => false
  | .status => false
  | .argK   => true
  | .keyLen => true
  | .info   => false
  | .key _  => true
  | .opa _  => true
  | .opb _  => true
  | .out _  => false

/-- Every command is well formed: CMD32 has no operand field (R90), so a command has no field to check. The reserved
field RSV belongs to the word, and `decode` checks it there. -/
def Instr.wf : Instr → Bool
  | .seed        => true
  | .random      => true
  | .getrandbits => true
  | .randbelow   => true
  | .randint     => true

end Sys2Proof
end

