-- ==== Sys2Proof/Machine/Ops.lean ====
section
/-! DEFINITION. The named operations every command and every transaction shares: refusing a command (the engine's only
exception, 60_exceptions.md R244; there is no return from it, R248), accepting one (R240), completing one (R246),
dropping a write (20_memory.md R67), and the registers behind the window (R60). -/

namespace Sys2Proof.Machine

/-- `raise Error(code)` (R244): STATUS.ERR <- code and nothing else. The engine saves nothing, has no vector and stays
idle (R248). -/
def State.raise (s : State) (e : ErrCode) : State := { s with err := e }

/-- The end of OnCmdWrite for an accepted command (R240): ERR <- OK, CUR_OP <- op, BUSY <- 1. -/
def State.accept (s : State) (i : Instr) : State := { s with err := .ok, curOp := some i, busy := true }

/-- `complete` (R246): BUSY <- 0 and CUR_OP <- none. -/
def State.complete (s : State) : State := { s with busy := false, curOp := none }

/-- A write dropped because BUSY = 1 (R67): STATUS.OVR <- 1 and nothing else. -/
def State.dropWrite (s : State) : State := { s with ovr := true }

/-- All XWORDS words of OUT at once (10_state.md R45), from the low XW bits of a value (30_encoding.md R98). -/
def State.putOut (s : State) (v : Nat) : State := { s with out := wordsOf s.cfg.xwords v }

/-- The generator state a primitive left. -/
def State.putGen (s : State) (g : GeneratorState) : State := { s with gen := g }

/-- The in-flight record of a bounded command (R240): CUR_D, CUR_K = bitlen(CUR_D) and CUR_BASE. -/
def State.latchBound (s : State) (d : Nat) (base : Int) : State :=
  { s with curD := d, curK := bitlen d, curBase := base }

/-- OnCmdWrite (R240) for a word that decodes to the command `i`, in the order of R245: dropped while BUSY = 1, then
NOT_SEEDED for every command but SEED (R242), then the command's own checks (R243), which answer the error they raise
or the state with the CUR_ fields of their branch written. -/
def State.onCmdWrite (s : State) (i : Instr) (check : State → Except ErrCode State) : State :=
  if s.busy then s.dropWrite
  else if i ≠ .seed ∧ s.seeded = false then s.raise .notSeeded
  else match check s with
    | .error e => s.raise e
    | .ok s'   => s'.accept i

/-- OnCmdWrite (R240) for a word that decodes as ILLEGAL (30_encoding.md R93). -/
def State.onIllegalWrite (s : State) : State :=
  if s.busy then s.dropWrite else s.raise .illegalCommand

/-- The two atomic actions of a command, by the agent whose step is under way: the host's CMD write presents it (R240),
an engine step runs it (70_reset_and_hazards.md R282). -/
def State.runCommand (s : State) (i : Instr) (check : State → Except ErrCode State) (run : State → State) : State :=
  match s.turn with
  | .host   => s.onCmdWrite i check
  | .engine => run s

/-- The register at an offset of the window, by the map of R60; an unmapped offset has none (R62). -/
def decodeOffset (c : Config) (off : Nat) : Option Reg :=
  if off = 0x0000 then some .cmd
  else if off = 0x0004 then some .status
  else if off = 0x0008 then some .argK
  else if off = 0x000C then some .keyLen
  else if off = 0x0010 then some .info
  else if off % 4 ≠ 0 then none
  else if 0x1000 ≤ off ∧ off < 0x1000 + 4 * c.keymax then some (.key ((off - 0x1000) / 4))
  else if 0x2000 ≤ off ∧ off < 0x2000 + 4 * c.xwords then some (.opa ((off - 0x2000) / 4))
  else if 0x3000 ≤ off ∧ off < 0x3000 + 4 * c.xwords then some (.opb ((off - 0x3000) / 4))
  else if 0x4000 ≤ off ∧ off < 0x4000 + 4 * c.xwords then some (.out ((off - 0x4000) / 4))
  else none

/-- The offset of a register (R60). R60 gives an array register an offset only below KEYMAX or XWORDS; above, the formula
goes on (DESIGN CHOICE, log entry 18). -/
def offsetOf : Reg → Nat
  | .cmd    => 0x0000
  | .status => 0x0004
  | .argK   => 0x0008
  | .keyLen => 0x000C
  | .info   => 0x0010
  | .key j  => 0x1000 + 4 * j
  | .opa w  => 0x2000 + 4 * w
  | .opb w  => 0x3000 + 4 * w
  | .out w  => 0x4000 + 4 * w

/-- The access a host program makes when it names a register (30_encoding.md R99): 32 bits at BASE + offset. -/
def accessOf (c : Config) (r : Reg) : Access := { addr := c.base + offsetOf r, bytes := 4 }

/-- Where an access of the host lands. The engine decodes the low 15 bits of the address (R61); an access of another
width, a misaligned one (R65) and one outside the window (R60) are outside the interface (log entry 7). -/
def locate (c : Config) (a : Access) : Except Refusal (Option Reg) :=
  if a.isWord = false then .error .accessWidth
  else if a.isAligned = false then .error .accessAlignment
  else if a.inWindow c = false then .error .outsideWindow
  else .ok (decodeOffset c (a.addr % 0x8000))

/-- HostRead (R63) of a mapped register or of nothing (R62): the value, and the state, which differs from `s` only
where a free draw was taken (R68, log entry 2): a read of OUT[w] while BUSY = 1. -/
def readReg (r : Option Reg) (s : State) : Word × State :=
  match r with
  | none            => (0#32, s)
  | some .cmd       => (0#32, s)
  | some .status    => (s.statusWord, s)
  | some .argK      => (s.argK, s)
  | some .keyLen    => (s.keyLen, s)
  | some .info      => (Config.infoWord s.cfg, s)
  | some (.key j)   => (wordAt s.key j, s)
  | some (.opa w)   => (wordAt s.opa w, s)
  | some (.opb w)   => (wordAt s.opb w, s)
  | some (.out w)   =>
    if s.busy then (Config.freeOut s.cfg.base w s.freeDraws, { s with freeDraws := s.freeDraws + 1 })
    else (wordAt s.out w, s)

/-- An RW register written by the host (R63), dropped while BUSY = 1 (R67). -/
def State.writeOperand (s : State) (update : State → State) : State :=
  if s.busy then s.dropWrite else update s

/-- HostWrite (R63) to anything but CMD: STATUS is W1C on OVR whatever BUSY is (R35, R67), the RW registers are written
or dropped, and INFO, OUT and unmapped offsets ignore it (R62). A write to CMD presents a command; `writeReg` of Agents.lean has it. -/
def writePlain (r : Option Reg) (v : Word) (s : State) : State :=
  match r with
  | none            => s
  | some .cmd       => s
  | some .status    => if clearsOverrun v then { s with ovr := false } else s
  | some .argK      => s.writeOperand fun s => { s with argK := v }
  | some .keyLen    => s.writeOperand fun s => { s with keyLen := v }
  | some .info      => s
  | some (.key j)   => s.writeOperand fun s => { s with key := s.key.set j v }
  | some (.opa w)   => s.writeOperand fun s => { s with opa := s.opa.set w v }
  | some (.opb w)   => s.writeOperand fun s => { s with opb := s.opb.set w v }
  | some (.out _)   => s

end Sys2Proof.Machine
end

