-- ==== Sys2Proof/Machine/Sampling.lean ====
section
/-! DEFINITION. Float sampling and bit extraction (42_float_and_bits.md R180 to R193): the commands RANDOM and
GETRANDBITS. -/

namespace Sys2Proof.Machine

/-- The 53-bit integer M of R180 from the two words drawn, wa first. -/
def floatInteger (wa wb : Word) : Nat := (wa >>> 5).toNat * 2 ^ 26 + (wb >>> 6).toNat

/-- `F64(M)` (R182): the binary64 pattern of M / 2^53, for M < 2^53. -/
def f64 (m : Nat) : Nat :=
  if m = 0 then 0
  else
    let p := bitlen m - 1
    (970 + p) * 2 ^ 52 + (m * 2 ^ (52 - p) - 2 ^ 52)

/-- RANDOM has no check of its own (R180). -/
def randomCheck (s : State) : Except ErrCode State := .ok s

/-- The engine step of RANDOM (R180): two words, the binary64 pattern in OUT[1..0], 0 in the words above. -/
def randomRun (s : State) : State :=
  let (wa, g)  := nextWord s.gen
  let (wb, g') := nextWord g
  ((s.putGen g').putOut (f64 (floatInteger wa wb))).complete

/-- RANDOM (R180). -/
def execRandom (s : State) : Host.Outcome State Fault Refusal :=
  .next (s.runCommand .random randomCheck randomRun)

/-- The word GetBits places at position w of n (R191): the last word is shifted right where k is no multiple of 32. -/
def placedWord (k n w : Nat) (x : Word) : Word :=
  if w + 1 = n ∧ k % 32 ≠ 0 then x >>> (32 - k % 32) else x

/-- `GetBits(k)` (R191): the integer and the generator state after its ceil(k / 32) words. -/
def getBits (k : Nat) (g : GeneratorState) : Nat × GeneratorState :=
  forRange (ceilDiv k 32)
    (fun w acc =>
      let (x, g') := nextWord acc.2
      (acc.1 + (placedWord k (ceilDiv k 32) w x).toNat * 2 ^ (32 * w), g'))
    (0, g)

/-- The acceptance checks of GETRANDBITS (R190), in order, then CUR_K <- k. -/
def getrandbitsCheck (s : State) : Except ErrCode State :=
  if s.kVal < 0 then .error .invalidArgument
  else if (s.cfg.kmax : Int) < s.kVal then .error .operandRange
  else .ok { s with curK := s.kVal.toNat }

/-- The engine step of GETRANDBITS (R190). -/
def getrandbitsRun (s : State) : State :=
  let (r, g) := getBits s.curK s.gen
  ((s.putGen g).putOut r).complete

/-- GETRANDBITS (R190). -/
def execGetrandbits (s : State) : Host.Outcome State Fault Refusal :=
  .next (s.runCommand .getrandbits getrandbitsCheck getrandbitsRun)

end Sys2Proof.Machine
end

