-- ==== Sys2Proof/Machine/Bounded.lean ====
section
/-! DEFINITION. The rejection-sampling controller (43_bounded_int.md R210 to R216): the commands RANDBELOW and
RANDINT. -/

namespace Sys2Proof.Machine

/-- `DrawAtMost(D)` (R210) with at most `fuel` candidates: the loop of the pseudocode has no bound (R215), so this
answers none where `fuel` candidates were all rejected. The engine never runs it; R211 says its steps compute it. -/
def drawAtMost (fuel : Nat) (d : Nat) (g : GeneratorState) : Option (Nat × GeneratorState) :=
  if bitlen d = 0 then some (0, g)
  else match fuel with
    | 0        => none
    | fuel + 1 =>
      let (r, g') := getBits (bitlen d) g
      if r ≤ d then some (r, g') else drawAtMost fuel d g'

/-- The value OUT gets from an accepted candidate: trunc_XW(CUR_BASE + r) (R211). -/
def State.boundedResult (s : State) (r : Nat) : Nat := truncTo s.cfg.xw (s.curBase + (r : Int))

/-- `BoundedStep()` (R211): at most one candidate; a rejected one changes only MT and IDX. -/
def boundedStep (s : State) : State :=
  if s.curK = 0 then (s.putOut (truncTo s.cfg.xw s.curBase)).complete
  else
    let (r, g) := getBits s.curK s.gen
    if r ≤ s.curD then ((s.putGen g).putOut (s.boundedResult r)).complete else s.putGen g

/-- The acceptance check of RANDBELOW (R213), then CUR_D <- n - 1, CUR_K <- bitlen(n - 1), CUR_BASE <- 0. -/
def randbelowCheck (s : State) : Except ErrCode State :=
  if s.opaVal ≤ 0 then .error .invalidArgument
  else .ok (s.latchBound (s.opaVal - 1).toNat 0)

/-- RANDBELOW (R213). -/
def execRandbelow (s : State) : Host.Outcome State Fault Refusal :=
  .next (s.runCommand .randbelow randbelowCheck boundedStep)

/-- The acceptance check of RANDINT (R214), then CUR_D <- b - a, CUR_K <- bitlen(b - a), CUR_BASE <- a. -/
def randintCheck (s : State) : Except ErrCode State :=
  if s.opbVal < s.opaVal then .error .invalidArgument
  else .ok (s.latchBound (s.opbVal - s.opaVal).toNat s.opaVal)

/-- RANDINT (R214). -/
def execRandint (s : State) : Host.Outcome State Fault Refusal :=
  .next (s.runCommand .randint randintCheck boundedStep)

end Sys2Proof.Machine
end

