-- ==== Sys2Proof/Machine/Seeding.lean ====
section
/-! DEFINITION. Seeding (40_seeding.md R122 to R128): the three stages of the key schedule and the command SEED. -/

namespace Sys2Proof.Machine

/-- The scrambled word x xor (x >> 30) all three stages multiply (R122 to R124). -/
def scramble (x : Word) : Word := x ^^^ (x >>> 30)

/-- Stage 1 (R122): slot 0 gets the constant, then slots 1 to 623 in order; the key is not read. -/
def bootstrap (mt : Vector Word 624) : Vector Word 624 :=
  forRange 623
    (fun k m => writeMT m (k + 1) (initMult * scramble (readMT m k) + BitVec.ofNat 32 (k + 1)))
    (writeMT mt 0 initSeed)

/-- What the mixing passes carry: MT, the slot index i and the key index j (R123). -/
structure MixState where
  mt : Vector Word 624
  i  : Nat
  j  : Nat
deriving DecidableEq, Repr

/-- The wrap of the slot index (R123, R124): at 624, MT[0] <- MT[623] and i <- 1. -/
def wrapSlot (m : MixState) : MixState :=
  if 624 ≤ m.i then { m with mt := writeMT m.mt 0 (readMT m.mt 623), i := 1 } else m

/-- The wrap of the key index (R123): j <- 0 when it reaches the key length. -/
def wrapKey (len : Nat) (m : MixState) : MixState := if len ≤ m.j then { m with j := 0 } else m

/-- One step of stage 2a (R123). -/
def mixKeyStep (key : List Word) (m : MixState) : MixState :=
  let t := scramble (readMT m.mt (m.i - 1)) * mix1Mult
  let v := (readMT m.mt m.i ^^^ t) + wordAt key m.j + BitVec.ofNat 32 m.j
  wrapKey key.length (wrapSlot { mt := writeMT m.mt m.i v, i := m.i + 1, j := m.j + 1 })

/-- Stage 2a (R123): max(624, L) steps from i = 1, j = 0. -/
def mixKey (key : List Word) (mt : Vector Word 624) : MixState :=
  forRange (max 624 key.length) (fun _ => mixKeyStep key) { mt := mt, i := 1, j := 0 }

/-- One step of stage 2b (R124). -/
def mixPlainStep (m : MixState) : MixState :=
  let t := scramble (readMT m.mt (m.i - 1)) * mix2Mult
  let v := (readMT m.mt m.i ^^^ t) - BitVec.ofNat 32 m.i
  wrapSlot { m with mt := writeMT m.mt m.i v, i := m.i + 1 }

/-- Stage 2b (R124): 623 steps; i continues from stage 2a. -/
def mixPlain (m : MixState) : MixState := forRange 623 (fun _ => mixPlainStep) m

/-- `InitByArray(key)` (R126): the stages in order on the words of MT, then MT[0] <- 0x80000000 (R125) and
IDX <- 624. It draws no word and does not twist. -/
def initByArray (key : List Word) (g : GeneratorState) : GeneratorState :=
  { mt := writeMT (mixPlain (mixKey key (bootstrap g.mt))).mt 0 state0Final, idx := 624 }

/-- The acceptance check of SEED (R127): 1 <= L <= KEYMAX. -/
def seedCheck (s : State) : Except ErrCode State :=
  if s.keyCount = 0 ∨ s.cfg.keymax < s.keyCount then .error .operandRange else .ok s

/-- The engine step of SEED (R127). -/
def seedRun (s : State) : State :=
  State.complete { s with gen := initByArray s.keyWords s.gen, seeded := true }

/-- SEED (R127). -/
def execSeed (s : State) : Host.Outcome State Fault Refusal :=
  .next (s.runCommand .seed seedCheck seedRun)

end Sys2Proof.Machine
end

