-- ==== Sys2Proof/Machine/Dispatch.lean ====
section
/-! DEFINITION. One arm per command of the opcode map (30_encoding.md R91). -/

namespace Sys2Proof.Machine

/-- The command `i` in the state `s`: presented by the host's write to CMD where `s.turn` is the host
(60_exceptions.md R240), run for one engine step where it is the engine (70_reset_and_hazards.md R282). -/
def exec (i : Instr) (s : State) : Host.Outcome State Fault Refusal :=
  match i with
  | .seed => Sys2Proof.Machine.execSeed s
  | .random => Sys2Proof.Machine.execRandom s
  | .getrandbits => Sys2Proof.Machine.execGetrandbits s
  | .randbelow => Sys2Proof.Machine.execRandbelow s
  | .randint => Sys2Proof.Machine.execRandint s

end Sys2Proof.Machine
end

