-- ==== Sys2Proof/Machine/Agents.lean ====
section
/-! DEFINITION. The agents and the platform (70_reset_and_hazards.md R270, R280 to R284): the host performs the
transactions of its program, the engine takes engine steps while BUSY = 1, the platform resets, and the schedule says
whose turn it is. -/

namespace Sys2Proof.Machine

/-- HostWrite (20_memory.md R63): a write to CMD decodes the word and presents the command (60_exceptions.md R240);
every other register's write action is `writePlain`. -/
def writeReg (r : Option Reg) (v : Word) (s : State) : Host.Outcome State Fault Refusal :=
  match r with
  | some .cmd =>
    match decode v with
    | .ok i    => exec i s
    | .error _ => .next s.onIllegalWrite
  | r => .next (writePlain r v s)

/-- A value an RD transaction returned joins the results of the run (R284). -/
def State.record (s : State) (v : Word) : State := { s with results := s.results ++ [v] }

/-- One transaction of the host program (R100), the next of `s.program`; a program that is over leaves the machine as
it is (R256, log entry 9). A POLL is one read of STATUS and stays next while that read has BUSY = 1 (R101). -/
def hostTurn (s : State) : Host.Outcome State Fault Refusal :=
  match s.program with
  | [] => .next s
  | .write a v :: rest =>
    match locate s.cfg a with
    | .error e => .refused e
    | .ok r    => writeReg r v { s with program := rest }
  | .read a :: rest =>
    match locate s.cfg a with
    | .error e => .refused e
    | .ok r    =>
      let (v, s') := readReg r { s with program := rest }
      .next (s'.record v)
  | .poll :: rest =>
    let (v, s') := readReg (some .status) s
    .next (if busyBit v then s'.record v else { s'.record v with program := rest })

/-- One engine step (R282): enabled only while BUSY = 1, chosen by CUR_OP. While BUSY = 0 the engine does nothing
(R256, log entry 9); BUSY = 1 with no command is a fault (log entry 10). -/
def engineTurn (s : State) : Host.Outcome State Fault Refusal :=
  if s.busy then
    match s.curOp with
    | some i => exec i s
    | none   => .fault .noCommandInFlight
  else .next s

/-- The reset event (R270): every piece of the engine's state takes its reset value at once. The configuration is no
state (R30), and the host's program, what it has read, the schedule and the count of free draws are not the engine's (log entry 12). -/
def State.resetEvent (s : State) : State :=
  { State.resetWith s.cfg with
    program := s.program, results := s.results, schedule := s.schedule, turn := s.turn, freeDraws := s.freeDraws }

/-- Whose turn it is (R281), and what is left of the schedule: the next fixed choice, or, where none is fixed, the
engine while it is enabled and the host otherwise (DESIGN CHOICE, log entry 3). -/
def State.nextTurn (s : State) : Turn × List Turn :=
  match s.schedule with
  | t :: rest => (t, rest)
  | []        => (if s.busy then .engine else .host, [])

/-- The step of the agent whose turn it is. -/
def takeTurn (t : Turn) (s : State) : Host.Outcome State Fault Refusal :=
  match t with
  | .host       => hostTurn { s with turn := .host }
  | .engine     => engineTurn { s with turn := .engine }
  | .reset      => .next s.resetEvent
  | .secondHost => .refused .secondHost

/-- The transaction that presents a command word to the engine: a write of the word to CMD (30_encoding.md R90). -/
def presentWord (c : Config) (w : Word) : HostOp := .write (accessOf c .cmd) w

/-- `s` with the host about to perform one transaction, before everything its program has yet to perform. -/
def State.withNextOp (s : State) (op : HostOp) : State :=
  { s with program := op :: s.program, schedule := .host :: s.schedule }

end Sys2Proof.Machine
end

