-- ==== Sys2Proof/Machine/Step.lean ====
section
/-! DEFINITION. One step of the machine: one point of the total order of 20_memory.md R71. -/

namespace Sys2Proof.Machine

/-- The agent whose turn it is takes one step (70_reset_and_hazards.md R281). -/
def step (s : State) : Host.Outcome State Fault Refusal :=
  takeTurn s.nextTurn.1 { s with schedule := s.nextTurn.2 }

/-- `s` with the command word `w` presented by the very next step: the engine fetches no instruction (30_encoding.md R90,
20_memory.md R74), so the host's next transaction becomes the write of `w` to CMD (log entry 6). A command is one word, so
`nbits` above 32 adds nothing. -/
def State.withFetchWord (s : State) (nbits w : Nat) : State :=
  s.withNextOp (presentWord s.cfg (BitVec.ofNat 32 (w % 2 ^ nbits)))

end Sys2Proof.Machine
end

