-- ==== Sys2Proof/Machine/HostProgram.lean ====
section
/-! DEFINITION. The host's side of the interface: the key words of a seed (40_seeding.md R120) and the pseudo-instructions
of host programs as their expansions (30_encoding.md R101). -/

namespace Sys2Proof.Machine

/-- The loop of R120: the low 32 bits of v, then v >> 32, until v is 0. `fuel` bounds the loop; the bit length of v is
enough. -/
def keyChunks : Nat → Nat → List Word
  | 0, _        => []
  | fuel + 1, v => if v = 0 then [] else BitVec.ofNat 32 v :: keyChunks fuel (v / 2 ^ 32)

/-- `SeedWords(s)` (R120). -/
def seedWords (s : Int) : List Word :=
  if s.natAbs = 0 then [0#32] else keyChunks (bitlen s.natAbs) s.natAbs

/-- The command word of each mnemonic (R91). -/
def commandWord : Instr → Word
  | .seed        => 0x00000001#32
  | .random      => 0x00000002#32
  | .getrandbits => 0x00000003#32
  | .randbelow   => 0x00000004#32
  | .randint     => 0x00000005#32

/-- The mnemonic of a command (R102). -/
def mnemonicOf : Instr → String
  | .seed        => "SEED"
  | .random      => "RANDOM"
  | .getrandbits => "GETRANDBITS"
  | .randbelow   => "RANDBELOW"
  | .randint     => "RANDINT"

/-- The command a mnemonic spells; any other spelling is none (R102). -/
def commandNamed (m : String) : Option Instr :=
  [Instr.seed, .random, .getrandbits, .randbelow, .randint].find? fun i => mnemonicOf i == m

/-- `WR <reg>, <value>` (R100); a negative value stands for its trunc_32 (R99). -/
def wr (c : Config) (r : Reg) (v : Int) : HostOp := .write (accessOf c r) (BitVec.ofNat 32 (truncTo 32 v))

/-- `RD <reg> -> <name>` (R100); the value joins the results of the run. -/
def rd (c : Config) (r : Reg) : HostOp := .read (accessOf c r)

/-- `CMD <MNEMONIC>` (R101). -/
def cmdOp (c : Config) (i : Instr) : HostOp := .write (accessOf c .cmd) (commandWord i)

/-- `CHECK <code>` (R101): the read of STATUS. -/
def checkOp (c : Config) : HostOp := rd c .status

/-- The claim of `CHECK <code>` on the word its read returned: s[7:4] = code (R101). -/
def checkClaim (code : BitVec 4) (v : Word) : Bool := decide (errField v = code)

/-- `LDX OPA, <int>` (R101): the words of trunc_XW(int) in increasing order. -/
def ldxOpa (c : Config) (x : Int) : List HostOp :=
  (List.range c.xwords).map fun w => .write (accessOf c (.opa w)) (wordAt (wordsOf c.xwords (truncTo c.xw x)) w)

/-- `LDX OPB, <int>` (R101). -/
def ldxOpb (c : Config) (x : Int) : List HostOp :=
  (List.range c.xwords).map fun w => .write (accessOf c (.opb w)) (wordAt (wordsOf c.xwords (truncTo c.xw x)) w)

/-- `LDKEY <int>` (R101): the key words, then KEY_LEN. A seed of more than KEYMAX words is against the host's duty of R272;
R101 expands it all the same, into writes of registers R60 gives no offset, and the offset `offsetOf` gives them is the
model's (DESIGN CHOICE, log entry 18): unmapped below j = 1024, in the slots of OPA, OPB or OUT or above them from there
on. -/
def ldkey (c : Config) (s : Int) : List HostOp :=
  (List.range (seedWords s).length).map (fun j => .write (accessOf c (.key j)) (wordAt (seedWords s) j))
    ++ [wr c .keyLen (seedWords s).length]

/-- `SEEDI <int>` (R101): LDKEY, CMD SEED, POLL. -/
def seedi (c : Config) (s : Int) : List HostOp := ldkey c s ++ [cmdOp c .seed, .poll]

/-- `RDX OUT -> <name>` (R101): the reads; the name stands for `wideOf` of what they return. -/
def rdxOut (c : Config) : List HostOp := (List.range c.xwords).map fun w => rd c (.out w)

/-- `REPEAT <n> ... END` (R101): n copies of the body, in order. -/
def repeatOps : Nat → List HostOp → List HostOp
  | 0, _        => []
  | n + 1, body => body ++ repeatOps n body

end Sys2Proof.Machine
end

