-- ==== Sys2Proof/Machine/Platform.lean ====
section
/-! DEFINITION. The run of a host program and its result (70_reset_and_hazards.md R284), and engines side by side
(10_state.md R48, 60_exceptions.md R254). -/

namespace Sys2Proof.Machine

/-- The host has performed its last transaction (R284). -/
abbrev State.hostDone (s : State) : Prop := s.program = []

/-- The end of the run of a host program from `s` (R284): the state at the point where the host has performed its last
transaction, where that point comes within `n` points of the total order. The run takes no step past it. A run the machine
stops, or that has not ended, has no end. -/
def runEnd : Nat → State → Option State
  | 0, s     => if s.hostDone then some s else none
  | n + 1, s =>
    if s.hostDone then some s
    else match step s with
      | .next t => runEnd n t
      | _       => none

/-- The result of a run (R284): the values its RD transactions returned, where it ends within `n` points. -/
def runResult (n : Nat) (s : State) : Option (List Word) := (runEnd n s).map State.results

/-- A host program loaded into an idle engine: the host performs it from its first transaction. -/
def State.withProgram (s : State) (p : List HostOp) : State := { s with program := p, results := [] }

/-- Engines side by side: the product of independent engines (R48). A step is a step of one of them, the `n`-th, and
touches no other; where the list has no `n`-th engine nothing happens. Each engine of the list has a host of its own:
one host that drives several engines, which 70_reset_and_hazards.md R280 neither gives nor bars, is not in the model.
The absent engine and the hosts are a DESIGN CHOICE (log entry 16). -/
def stepAt (n : Nat) (es : List State) : Host.Outcome (List State) Fault Refusal :=
  match es[n]? with
  | none   => .next es
  | some s =>
    match step s with
    | .next t    => .next (es.set n t)
    | .fault f   => .fault f
    | .refused r => .refused r

end Sys2Proof.Machine
end

