-- ==== Sys2Proof/Safety.lean ====
section
/-! DEFINITION. The terms the statements use: the invariant of the machine, piece by piece. -/

namespace Sys2Proof.Machine

/-- The arrays have the sizes the configuration gives them (10_state.md R42 to R45). -/
abbrev State.sizesOk (s : State) : Prop :=
  s.key.length = s.cfg.keymax ∧ s.opa.length = s.cfg.xwords ∧ s.opb.length = s.cfg.xwords
    ∧ s.out.length = s.cfg.xwords

/-- BUSY and CUR_OP agree (R240 and R246 write them together), an in-flight command was accepted with ERR = OK (R246),
and no production command is in flight before a SEED has completed (R242). -/
abbrev State.recordOk (s : State) : Prop :=
  s.busy = s.curOp.isSome ∧ (s.busy = true → s.err = .ok)
    ∧ (s.seeded = false → s.curOp = none ∨ s.curOp = some .seed)

/-- The ranges of R34 of the in-flight record. -/
abbrev State.rangesOk (s : State) : Prop :=
  s.curK ≤ s.cfg.xw ∧ s.curD < 2 ^ s.cfg.xw
    ∧ -(2 ^ (s.cfg.xw - 1) : Int) ≤ s.curBase ∧ s.curBase < (2 ^ (s.cfg.xw - 1) : Int)

/-- What acceptance established for a bounded command in flight (R213, R214): the width of a candidate, and a result
that fits the result register (R216). -/
abbrev State.boundOk (s : State) : Prop :=
  s.curK = bitlen s.curD ∧ s.curBase + (s.curD : Int) < (2 ^ (s.cfg.xw - 1) : Int)

/-- What acceptance established for the command in flight, command by command. -/
abbrev State.operandsOk (s : State) : Prop :=
  (s.curOp = some .seed → 1 ≤ s.keyCount ∧ s.keyCount ≤ s.cfg.keymax)
    ∧ (s.curOp = some .randbelow → s.boundOk ∧ s.curBase = 0)
    ∧ (s.curOp = some .randint → s.boundOk)

/-- The invariant every step keeps: a legal configuration (R7), IDX in [0, 624] (R32), and the above. -/
abbrev State.Inv (s : State) : Prop :=
  s.cfg.wf = true ∧ s.gen.idx ≤ 624 ∧ s.sizesOk ∧ s.recordOk ∧ s.rangesOk ∧ s.operandsOk

end Sys2Proof.Machine
end

