-- ==== Sys2Proof/Certificates/Slice0/Obligations.lean ====
section
/-! DEFINITION. The statements for the provers, each from the numbered rules of spec/ its docstring names. In a statement
about `exec`, `s.turn = .host` is the host's write to CMD that presents the command (60_exceptions.md R240) and
`s.turn = .engine` is the engine step that runs it (70_reset_and_hazards.md R282). -/

open Sys2Proof Sys2Proof.Machine

section Encoding

/-- R90, R91: decoding the encoding of a command gives the command. -/
def Obligations.DecodeOfEncodeIsTheCommand : Prop :=
  ∀ i : Instr, i.wf = true → decode (encode i) = .ok i

/-- R92: the decoder is total and accepts exactly the five words of the opcode map, each as its command. -/
def Obligations.DecodeAcceptsExactlyTheFiveWords : Prop :=
  ∀ w : Word,
    (decode w = .ok .seed ↔ w = 0x00000001#32) ∧ (decode w = .ok .random ↔ w = 0x00000002#32) ∧
    (decode w = .ok .getrandbits ↔ w = 0x00000003#32) ∧ (decode w = .ok .randbelow ↔ w = 0x00000004#32) ∧
    (decode w = .ok .randint ↔ w = 0x00000005#32) ∧
    ((∃ e, decode w = .error e) ↔
      w ≠ 0x00000001#32 ∧ w ≠ 0x00000002#32 ∧ w ≠ 0x00000003#32 ∧ w ≠ 0x00000004#32 ∧ w ≠ 0x00000005#32)

/-- R91: the words of the opcode table, as the table numbers their bits, and three reserved words. -/
def Obligations.TableWordsDecodeToTheirCommands : Prop :=
  decodeTableWord 32 0x00000001 = some .seed ∧ decodeTableWord 32 0x00000002 = some .random ∧
  decodeTableWord 32 0x00000003 = some .getrandbits ∧ decodeTableWord 32 0x00000004 = some .randbelow ∧
  decodeTableWord 32 0x00000005 = some .randint ∧ decodeTableWord 32 0x00000000 = none ∧
  decodeTableWord 32 0x00000006 = none ∧ decodeTableWord 32 0x00000011 = none

end Encoding

section Steps

/-- R63, R100, R240: where the turn is the host's, the step performs the next transaction of its program, with the
transaction taken off the program, the choice taken off the schedule and the turn the host's: a write of a word that decodes
to a command to CMD is `exec` of that command, a write to a register is its write action, and a read of a register appends
the value read to the results (R284). -/
def Obligations.StepRunsThePresentedCommand : Prop :=
  (∀ (s : State) (q : List Turn) (a : Access) (v : Word) (rest : List HostOp) (i : Instr),
    s.nextTurn = (.host, q) → s.program = .write a v :: rest → locate s.cfg a = .ok (some .cmd) →
    decode v = .ok i → i.wf = true →
    step s = exec i { s with schedule := q, turn := .host, program := rest }) ∧
  ∀ (s : State) (q : List Turn) (a : Access) (rest : List HostOp) (r : Reg),
    s.nextTurn = (.host, q) → locate s.cfg a = .ok (some r) →
    (∀ v : Word, s.program = .write a v :: rest →
      step s = writeReg (some r) v { s with schedule := q, turn := .host, program := rest }) ∧
    (s.program = .read a :: rest →
      step s = .next { (readReg (some r) s).2 with
        schedule := q, turn := .host, program := rest, results := s.results ++ [(readReg (some r) s).1] })

/-- R282: where the turn is the engine's and a command is in flight, the step is `exec` of that command, with the choice
taken off the schedule and the turn the engine's. -/
def Obligations.StepRunsTheCommandInFlight : Prop :=
  ∀ (s : State) (q : List Turn) (i : Instr),
    s.nextTurn = (.engine, q) → s.busy = true → s.curOp = some i →
    step s = exec i { s with schedule := q, turn := .engine }

/-- R90, R63 (how a word comes to be presented is the model's, log entry 6): with a table word placed by `withFetchWord`,
the very next step presents the command it decodes to, and the host's program and the schedule are then as they were. -/
def Obligations.FetchedWordRunsAtTheNextStep : Prop :=
  ∀ (s : State) (nbits w : Nat) (i : Instr),
    s.cfg.wf = true → decodeTableWord nbits w = some i →
    step (s.withFetchWord nbits w) = exec i { s with turn := .host }

/-- R93, R241: a word with RSV not 0, or OP 0x0 or 0x6 to 0xF, written to CMD is refused with ILLEGAL_COMMAND, code 4,
while BUSY = 0, and dropped while BUSY = 1; nothing else changes. -/
def Obligations.IllegalWordIsRefusedOrDropped : Prop :=
  ErrCode.illegalCommand.code = 4#4 ∧
  ∀ (s : State) (q : List Turn) (a : Access) (v : Word) (rest : List HostOp),
    s.nextTurn = (.host, q) → s.program = .write a v :: rest → locate s.cfg a = .ok (some .cmd) →
    (v >>> 4 ≠ 0#32 ∨ v &&& 0xF#32 = 0#32 ∨ 0x6#32 ≤ v &&& 0xF#32) →
    (s.busy = false →
      step s = .next { s with schedule := q, turn := .host, program := rest, err := .illegalCommand }) ∧
    (s.busy = true → step s = .next { s with schedule := q, turn := .host, program := rest, ovr := true })

end Steps

section Acceptance

/-- R242: before the first SEED has completed, every production command is refused with NOT_SEEDED, code 2, and nothing
else changes, whatever the operands; SEED never raises it. -/
def Obligations.ProductionBeforeSeedingIsRefused : Prop :=
  ErrCode.notSeeded.code = 2#4 ∧
  ∀ s : State, s.turn = .host → s.busy = false →
    (s.seeded = false → ∀ i : Instr, i ≠ .seed → exec i s = .next { s with err := .notSeeded }) ∧
    (∃ t, exec .seed s = .next t ∧ t.err ≠ .notSeeded)

/-- R244: a command write that is refused changes STATUS.ERR and nothing else: the engine stays idle, no word is drawn,
every operand register can be read back, and the next read of STATUS shows the code. -/
def Obligations.RefusedWriteChangesOnlyTheCode : Prop :=
  ∀ (s t : State) (v : Word), s.turn = .host → s.busy = false → writeReg (some .cmd) v s = .next t → t.busy = false →
    t.err ≠ .ok ∧ t = { s with err := t.err } ∧
    (readReg (some .status) t).1.extractLsb' 4 4 = t.err.code ∧
    ∀ r : Reg, r.isOperand = true → (readReg (some r) t).1 = (readReg (some r) s).1

/-- R243, tried in the order of R240: a word written to CMD while BUSY = 0 reports INVALID_ARGUMENT, code 1, and
OPERAND_RANGE, code 3, exactly where the table of R243 says, after ILLEGAL_COMMAND and NOT_SEEDED, and OK where no code
applies; no code above 4 exists. -/
def Obligations.ReportedCodeIsTheFirstThatApplies : Prop :=
  ErrCode.ok.code = 0#4 ∧ ErrCode.invalidArgument.code = 1#4 ∧ ErrCode.operandRange.code = 3#4 ∧
  (∀ e : ErrCode, e.code.toNat ≤ 4) ∧
  ∀ (s : State) (v : Word), s.turn = .host → s.busy = false →
    ∃ t, writeReg (some .cmd) v s = .next t ∧
      t.err =
        if v.toNat = 0 ∨ 5 < v.toNat then .illegalCommand
        else if v ≠ 1#32 ∧ s.seeded = false then .notSeeded
        else if (v = 3#32 ∧ s.argK.toInt < 0) ∨ (v = 4#32 ∧ s.opaVal ≤ 0) ∨ (v = 5#32 ∧ s.opbVal < s.opaVal) then
          .invalidArgument
        else if (v = 1#32 ∧ (s.keyLen.toNat = 0 ∨ s.cfg.keymax < s.keyLen.toNat)) ∨
            (v = 3#32 ∧ (s.cfg.xw : Int) < s.argK.toInt) then
          .operandRange
        else .ok

end Acceptance

section Seeding

/-- R122: stage 1 puts 19650218 into slot 0 and follows its recurrence through slots 1 to 623, as truncated integer
arithmetic, whatever MT held. -/
def Obligations.BootstrapFollowsItsRecurrence : Prop :=
  ∀ mt : Vector Word 624,
    readMT (bootstrap mt) 0 = 19650218#32 ∧
    ∀ i, 1 ≤ i → i ≤ 623 →
      (readMT (bootstrap mt) i).toNat =
        (1812433253 * (readMT (bootstrap mt) (i - 1) ^^^ (readMT (bootstrap mt) (i - 1) >>> 30)).toNat + i) % 2 ^ 32

/-- R123: stage 2a takes max(624, L) steps from i = 1 and j = 0, each as truncated integer arithmetic: the slot it
writes, the advance and wrap of both indices, MT[0] <- MT[623] at the wrap of i, and every other slot unchanged. -/
def Obligations.KeyedMixingFollowsItsFormula : Prop :=
  ∀ (key : List Word), 1 ≤ key.length →
    (∀ mt : Vector Word 624,
      mixKey key mt = (mixKeyStep key)^[max 624 key.length] { mt := mt, i := 1, j := 0 }) ∧
    ∀ m : MixState, 1 ≤ m.i → m.i ≤ 623 → m.j < key.length →
      let p := readMT m.mt (m.i - 1)
      let t := ((p ^^^ (p >>> 30)).toNat * 1664525) % 2 ^ 32
      let v := (((readMT m.mt m.i).toNat ^^^ t) + (wordAt key m.j).toNat + m.j) % 2 ^ 32
      let m' := mixKeyStep key m
      (readMT m'.mt m.i).toNat = v ∧ m'.j = (if m.j + 1 < key.length then m.j + 1 else 0) ∧
      (m.i < 623 → m'.i = m.i + 1 ∧ readMT m'.mt 0 = readMT m.mt 0) ∧
      (m.i = 623 → m'.i = 1 ∧ (readMT m'.mt 0).toNat = v) ∧
      ∀ n, n ≠ 0 → n ≠ m.i → readMT m'.mt n = readMT m.mt n

/-- R124: stage 2b takes 623 steps with no key input and goes on from the i of stage 2a, each step as truncated integer
arithmetic, with the same wrap of i. -/
def Obligations.PlainMixingFollowsItsFormula : Prop :=
  (∀ m : MixState, mixPlain m = mixPlainStep^[623] m) ∧
  ∀ m : MixState, 1 ≤ m.i → m.i ≤ 623 →
    let p := readMT m.mt (m.i - 1)
    let t := ((p ^^^ (p >>> 30)).toNat * 1566083941) % 2 ^ 32
    let v := (((readMT m.mt m.i).toNat ^^^ t) + 2 ^ 32 - m.i) % 2 ^ 32
    let m' := mixPlainStep m
    (readMT m'.mt m.i).toNat = v ∧
    (m.i < 623 → m'.i = m.i + 1 ∧ readMT m'.mt 0 = readMT m.mt 0) ∧
    (m.i = 623 → m'.i = 1 ∧ (readMT m'.mt 0).toNat = v) ∧
    ∀ n, n ≠ 0 → n ≠ m.i → readMT m'.mt n = readMT m.mt n

/-- R124, an inference the spec marks as derived: stage 2a ends with i = 1 + (max(624, L) mod 623), and stage 2b ends
with the i it started with. -/
def Obligations.MixingPassesEndAtTheirIndices : Prop :=
  ∀ (key : List Word) (mt : Vector Word 624), 1 ≤ key.length →
    (mixKey key mt).i = 1 + max 624 key.length % 623 ∧ (mixPlain (mixKey key mt)).i = (mixKey key mt).i

/-- R125: stage 3 forces MT[0] to 0x80000000 whatever stage 2b left there and touches no other slot, so the words are
not all zero. -/
def Obligations.InitByArrayForcesTheTopBit : Prop :=
  ∀ (key : List Word) (g : GeneratorState),
    readMT (initByArray key g).mt 0 = 0x80000000#32 ∧
    (∀ n, n ≠ 0 → readMT (initByArray key g).mt n = readMT (mixPlain (mixKey key (bootstrap g.mt))).mt n) ∧
    ∃ n, n < 624 ∧ readMT (initByArray key g).mt n ≠ 0#32

/-- R126: the key schedule is its stages in order, then MT[0] <- 0x80000000 and IDX <- 624; it reads nothing but the key:
the state it gives does not depend on the generator state it replaces. -/
def Obligations.InitByArrayForgetsTheOldState : Prop :=
  ∀ (key : List Word) (g g' : GeneratorState),
    initByArray key g =
      { mt := writeMT (mixPlain (mixKey key (bootstrap g.mt))).mt 0 0x80000000#32, idx := 624 } ∧
    initByArray key g = initByArray key g'

/-- R127: SEED. Its word; an idle engine accepts it exactly for 1 <= KEY_LEN <= KEYMAX, whatever SEEDED is, and refuses
it with OPERAND_RANGE otherwise; its engine step completes with the generator state of the key words, SEEDED = 1,
BUSY = 0, CUR_OP = none, and OUT, the key registers, ERR and everything else unchanged. -/
def Obligations.SeedFollowsItsRule : Prop :=
  decode 0x00000001#32 = .ok .seed ∧
  (∀ s : State, s.turn = .host → s.busy = false →
    (1 ≤ s.keyLen.toNat → s.keyLen.toNat ≤ s.cfg.keymax →
      exec .seed s = .next { s with err := .ok, curOp := some .seed, busy := true }) ∧
    (s.keyLen.toNat = 0 ∨ s.cfg.keymax < s.keyLen.toNat → exec .seed s = .next { s with err := .operandRange })) ∧
  ∀ s : State, s.turn = .engine →
    ∃ g : GeneratorState,
      exec .seed s = .next { s with gen := g, seeded := true, busy := false, curOp := none } ∧
      g = initByArray ((List.range s.keyLen.toNat).map (wordAt s.key)) s.gen ∧ g.idx = 624 ∧
      readMT g.mt 0 = 0x80000000#32

/-- R97: SEED reads KEY_LEN and the key words below it: two engines that agree on those end in the same generator state,
whatever else they hold. -/
def Obligations.SeedReadsOnlyItsKeyWords : Prop :=
  ∀ s s' t t' : State, s.turn = .engine → s'.turn = .engine → s.keyLen = s'.keyLen →
    (∀ j, j < s.keyLen.toNat → wordAt s.key j = wordAt s'.key j) →
    exec .seed s = .next t → exec .seed s' = .next t' → t.gen = t'.gen

end Seeding

section Generator

/-- R150: NextWord has two transitions: below IDX = 624 it returns the tempered MT[IDX] and advances IDX; at IDX = 624 it
twists, returns the tempered new MT[0] and leaves IDX = 1. IDX never exceeds 624. -/
def Obligations.NextWordTakesOneOfTwoTransitions : Prop :=
  ∀ g : GeneratorState,
    (g.idx = 624 → nextWord g = (temper (readMT (twist g.mt) 0), { mt := twist g.mt, idx := 1 })) ∧
    (g.idx < 624 → nextWord g = (temper (readMT g.mt g.idx), { mt := g.mt, idx := g.idx + 1 })) ∧
    (g.idx ≤ 624 → (nextWord g).2.idx ≤ 624)

/-- R151 in the dependency order of R153: every new word is formed from the old word of its slot, the next word (new only
for slot 623) and the partner word (new from slot 227 on); the constant is applied where the combined value is odd. -/
def Obligations.TwistFollowsTheDependencyOrder : Prop :=
  ∀ mt : Vector Word 624,
    let f := fun (cur nxt partner : Word) =>
      let y := (cur &&& 0x80000000#32) ||| (nxt &&& 0x7FFFFFFF#32)
      partner ^^^ (y >>> 1) ^^^ (if nxt.toNat % 2 = 1 then 0x9908B0DF#32 else 0#32)
    (∀ i, i ≤ 226 → readMT (twist mt) i = f (readMT mt i) (readMT mt (i + 1)) (readMT mt (i + 397))) ∧
    (∀ i, 227 ≤ i → i ≤ 622 →
      readMT (twist mt) i = f (readMT mt i) (readMT mt (i + 1)) (readMT (twist mt) (i - 227))) ∧
    readMT (twist mt) 623 = f (readMT mt 623) (readMT (twist mt) 0) (readMT (twist mt) 396)

/-- R153: the single pass with the modulus and the three-loop form compute the same state. -/
def Obligations.TwistEqualsTheThreeLoopForm : Prop :=
  ∀ mt : Vector Word 624, twist mt = twistThreeLoops mt

/-- R152: tempering is the four steps on integers, each left shift truncated to 32 bits. -/
def Obligations.TemperIsTruncatedIntegerArithmetic : Prop :=
  ∀ y : Word,
    let y1 := y.toNat ^^^ (y.toNat / 2 ^ 11)
    let y2 := y1 ^^^ ((y1 * 2 ^ 7 % 2 ^ 32) &&& 0x9D2C5680)
    let y3 := y2 ^^^ ((y2 * 2 ^ 15 % 2 ^ 32) &&& 0xEFC60000)
    (temper y).toNat = y3 ^^^ (y3 / 2 ^ 18)

/-- R154: from IDX = 624 the 1st, 625th, 1249th, ... word twists and no other does: after n words MT has been twisted
ceil(n / 624) times, and IDX follows. -/
def Obligations.DrawnWordsTwistEvery624 : Prop :=
  ∀ (n : Nat) (g : GeneratorState), g.idx = 624 →
    (drawWords n g).2 =
      { mt := twist^[(n + 623) / 624] g.mt, idx := if n = 0 then 624 else (n - 1) % 624 + 1 }

/-- R192: GetBits(k) is below 2^k. -/
def Obligations.GetBitsStaysBelowTwoPowK : Prop :=
  ∀ (k : Nat) (g : GeneratorState), (getBits k g).1 < 2 ^ k

/-- R155, R192: GetBits(k) draws exactly ceil(k / 32) words. -/
def Obligations.GetBitsDrawsCeilWords : Prop :=
  ∀ (k n : Nat) (g : GeneratorState), 32 * n < k + 32 → k ≤ 32 * n → (getBits k g).2 = (drawWords n g).2

/-- R191: GetBits(k) draws ceil(k / 32) words; the word drawn first is the least significant, and only the last word is
shifted, where k is no multiple of 32: its top (k mod 32) bits are kept. -/
def Obligations.GetBitsJoinsWordsLowToHigh : Prop :=
  ∀ (n b : Nat) (g : GeneratorState), b < 32 →
    (b = 0 → getBits (32 * n) g = (wideOf (drawWords n g).1, (drawWords n g).2)) ∧
    (b ≠ 0 → getBits (32 * n + b) g =
      (wideOf (drawWords n g).1 + (nextWord (drawWords n g).2).1.toNat / 2 ^ (32 - b) * 2 ^ (32 * n),
        (nextWord (drawWords n g).2).2))

end Generator

section Production

/-- R180: RANDOM. Its word; an idle engine refuses it with NOT_SEEDED while SEEDED = 0 and accepts it otherwise, whatever
its operand registers hold; its engine step completes with the binary64 pattern of M in OUT[1] and OUT[0], 0 in the words
above, M from the two words drawn in order, and nothing else changed; the least and the greatest M. -/
def Obligations.RandomFollowsItsRule : Prop :=
  decode 0x00000002#32 = .ok .random ∧ f64 0 = 0 ∧ f64 (2 ^ 53 - 1) = 0x3FEFFFFFFFFFFFFF ∧
  (∀ s : State, s.turn = .host → s.busy = false →
    (s.seeded = false → exec .random s = .next { s with err := .notSeeded }) ∧
    (s.seeded = true → exec .random s = .next { s with err := .ok, curOp := some .random, busy := true })) ∧
  ∀ s : State, s.turn = .engine → s.cfg.wf = true →
    ∃ t, exec .random s = .next t ∧
      t = { s with gen := (drawWords 2 s.gen).2, out := t.out, busy := false, curOp := none } ∧
      t.out.length = s.cfg.xwords ∧
      (let wa := wordAt (drawWords 2 s.gen).1 0
       let wb := wordAt (drawWords 2 s.gen).1 1
       let m := wa.toNat / 2 ^ 5 * 2 ^ 26 + wb.toNat / 2 ^ 6
       m ≤ 2 ^ 53 - 1 ∧
       wordAt t.out 0 = BitVec.ofNat 32 (f64 m) ∧ wordAt t.out 1 = BitVec.ofNat 32 (f64 m / 2 ^ 32) ∧
       ∀ w, 2 ≤ w → wordAt t.out w = 0#32)

/-- R182: F64(M) is the binary64 pattern whose value is exactly M / 2^53: +0.0 for M = 0, else a normal number with sign
0, exponent E in 970 to 1022 and fraction F with (2^52 + F) * 2^(E - 1023) = M / 2^53 * 2^52. The spec marks the
exactness (R181), and that nothing but +0.0 and normal numbers arises (R182), as its own inferences; the layout of binary64
is its general knowledge (log entry 13). -/
def Obligations.DoublePatternIsExact : Prop :=
  f64 0 = 0 ∧
  ∀ m : Nat, 0 < m → m < 2 ^ 53 →
    970 ≤ f64 m / 2 ^ 52 ∧ f64 m / 2 ^ 52 ≤ 1022 ∧
    (2 ^ 52 + f64 m % 2 ^ 52) * 2 ^ (f64 m / 2 ^ 52 - 970) = m * 2 ^ 52

/-- R181: the double RANDOM writes is never negative and never 1.0 or more: its pattern stays below that of 1.0. -/
def Obligations.RandomStaysBelowOne : Prop :=
  ∀ s : State, s.turn = .engine → s.cfg.wf = true →
    ∃ t, exec .random s = .next t ∧ wideOf t.out < 0x3FF0000000000000

/-- R190: GETRANDBITS. Its word; an idle engine refuses it with NOT_SEEDED while SEEDED = 0, else with INVALID_ARGUMENT
for k < 0 and OPERAND_RANGE for k > XW, k the two's-complement ARG_K, and else accepts it and latches k; its engine step
completes with the k latched bits in OUT, zero above them, and nothing else changed; the corner cases of k. -/
def Obligations.GetrandbitsFollowsItsRule : Prop :=
  decode 0x00000003#32 = .ok .getrandbits ∧
  (∀ s : State, s.turn = .host → s.busy = false →
    (s.seeded = false → exec .getrandbits s = .next { s with err := .notSeeded }) ∧
    (s.seeded = true → s.argK.toInt < 0 → exec .getrandbits s = .next { s with err := .invalidArgument }) ∧
    (s.seeded = true → (32 * s.cfg.xwords : Int) < s.argK.toInt →
      exec .getrandbits s = .next { s with err := .operandRange }) ∧
    (s.seeded = true → 0 ≤ s.argK.toInt → s.argK.toInt ≤ (32 * s.cfg.xwords : Int) →
      exec .getrandbits s =
        .next { s with err := .ok, curOp := some .getrandbits, busy := true, curK := s.argK.toInt.toNat })) ∧
  ∀ s : State, s.turn = .engine → s.curK ≤ 32 * s.cfg.xwords →
    ∃ t, exec .getrandbits s = .next t ∧
      t = { s with gen := (getBits s.curK s.gen).2, out := t.out, busy := false, curOp := none } ∧
      t.out.length = s.cfg.xwords ∧ wideOf t.out = (getBits s.curK s.gen).1 ∧
      (s.curK = 0 → wideOf t.out = 0 ∧ t.gen = s.gen) ∧
      (s.curK = 31 → wideOf t.out = (nextWord s.gen).1.toNat / 2) ∧
      (s.curK = 32 → wideOf t.out = (nextWord s.gen).1.toNat) ∧
      (s.curK = 33 → wideOf t.out =
        (nextWord s.gen).1.toNat + (nextWord (nextWord s.gen).2).1.toNat / 2 ^ 31 * 2 ^ 32) ∧
      (s.curK = 32 * s.cfg.xwords → t.out = (drawWords s.cfg.xwords s.gen).1)

/-- R213: RANDBELOW. Its word; an idle engine refuses it with NOT_SEEDED while SEEDED = 0, else with INVALID_ARGUMENT for
OPA = 0 and for every OPA pattern with its top bit set, and else accepts it, latching n - 1, its bit length and 0; left to
the engine, it completes with DrawAtMost(n - 1) in OUT and the generator state that loop leaves. -/
def Obligations.RandbelowFollowsItsRule : Prop :=
  decode 0x00000004#32 = .ok .randbelow ∧
  ∀ s : State, s.turn = .host → s.busy = false →
    (s.seeded = false → exec .randbelow s = .next { s with err := .notSeeded }) ∧
    (s.seeded = true → s.cfg.wf = true → s.opa.length = s.cfg.xwords →
      ((wideOf s.opa = 0 ∨ (wideOf s.opa).testBit (s.cfg.xw - 1) = true) →
        exec .randbelow s = .next { s with err := .invalidArgument }) ∧
      (wideOf s.opa ≠ 0 → (wideOf s.opa).testBit (s.cfg.xw - 1) = false →
        let t : State := { s with
          err := .ok, curOp := some .randbelow, busy := true,
          curD := wideOf s.opa - 1, curK := bitlen (wideOf s.opa - 1), curBase := 0 }
        exec .randbelow s = .next t ∧
        ∀ fuel r g, drawAtMost fuel (wideOf s.opa - 1) s.gen = some (r, g) →
          r < wideOf s.opa ∧ ∃ m, 1 ≤ m ∧ m ≤ fuel + 1 ∧
            Sys2Proof.core.run m { t with schedule := List.replicate m .engine } = .next { t with
              schedule := [], turn := .engine, gen := g, out := wordsOf s.cfg.xwords r, busy := false, curOp := none }))

/-- R214: RANDINT. Its word; an idle engine refuses it with NOT_SEEDED while SEEDED = 0, else with INVALID_ARGUMENT for
a > b, and else accepts it, latching b - a, its bit length and a; left to the engine, it completes with the
two's-complement pattern of a + DrawAtMost(b - a) in OUT and the generator state that loop leaves. -/
def Obligations.RandintFollowsItsRule : Prop :=
  decode 0x00000005#32 = .ok .randint ∧
  ∀ s : State, s.turn = .host → s.busy = false →
    (s.seeded = false → exec .randint s = .next { s with err := .notSeeded }) ∧
    (s.seeded = true → s.opbVal < s.opaVal → exec .randint s = .next { s with err := .invalidArgument }) ∧
    (s.seeded = true → s.opaVal ≤ s.opbVal →
      ∃ d : Nat, s.opaVal + (d : Int) = s.opbVal ∧
        let t : State := { s with
          err := .ok, curOp := some .randint, busy := true, curD := d, curK := bitlen d, curBase := s.opaVal }
        exec .randint s = .next t ∧
        ∀ fuel r g, drawAtMost fuel d s.gen = some (r, g) →
          r ≤ d ∧ ∃ m, 1 ≤ m ∧ m ≤ fuel + 1 ∧
            Sys2Proof.core.run m { t with schedule := List.replicate m .engine } = .next { t with
              schedule := [], turn := .engine, gen := g,
              out := wordsOf s.cfg.xwords (truncTo s.cfg.xw (s.opaVal + (r : Int))), busy := false, curOp := none })

/-- R211: one engine step of RANDBELOW or RANDINT draws at most one candidate: none for CUR_K = 0; an accepted one
completes the command with trunc_XW(CUR_BASE + r) in OUT; a rejected one changes only MT and IDX. -/
def Obligations.BoundedStepAcceptsOrRejects : Prop :=
  ∀ (s : State) (i : Instr), s.turn = .engine → i = .randbelow ∨ i = .randint →
    (s.curK = 0 →
      ∃ t, exec i s = .next t ∧ t = { s with out := t.out, busy := false, curOp := none } ∧
        t.out.length = s.cfg.xwords ∧ ((wideOf t.out : Nat) : Int) = s.curBase % 2 ^ s.cfg.xw) ∧
    (s.curK ≠ 0 → (getBits s.curK s.gen).1 ≤ s.curD →
      ∃ t, exec i s = .next t ∧
        t = { s with gen := (getBits s.curK s.gen).2, out := t.out, busy := false, curOp := none } ∧
        t.out.length = s.cfg.xwords ∧
        ((wideOf t.out : Nat) : Int) = (s.curBase + ((getBits s.curK s.gen).1 : Int)) % 2 ^ s.cfg.xw) ∧
    (s.curK ≠ 0 → s.curD < (getBits s.curK s.gen).1 →
      exec i s = .next { s with gen := (getBits s.curK s.gen).2 })

/-- R212: the candidate width RANDBELOW latches is the least k with n <= 2^k; for n a power of two it is the exponent. -/
def Obligations.RandbelowLatchesTheLeastWidth : Prop :=
  ∀ s : State, s.turn = .host → s.busy = false → s.seeded = true → 0 < s.opaVal →
    ∃ t, exec .randbelow s = .next t ∧ t.busy = true ∧ (∀ k : Nat, t.curK ≤ k ↔ s.opaVal ≤ 2 ^ k) ∧
      ∀ m : Nat, s.opaVal = 2 ^ m → t.curK = m

/-- R213, R214, a corner case the rules give: a bound of 2^m values rejects no candidate: the first engine step
completes. -/
def Obligations.PowerOfTwoBoundAcceptsTheFirstCandidate : Prop :=
  ∀ (s : State) (i : Instr) (m : Nat), s.turn = .engine → i = .randbelow ∨ i = .randint →
    s.curK = m → s.curD = 2 ^ m - 1 →
    ∃ t, exec i s = .next t ∧ t.busy = false ∧ t.gen = (getBits m s.gen).2 ∧
      ((wideOf t.out : Nat) : Int) = (s.curBase + ((getBits m s.gen).1 : Int)) % 2 ^ s.cfg.xw

/-- R216: read by signed_XW, a result of RANDBELOW lies in [0, n - 1] and a result of RANDINT in [a, b]. -/
def Obligations.BoundedResultsLieInTheirRanges : Prop :=
  ∀ s t : State, s.Inv → s.turn = .engine → t.busy = false →
    (s.curOp = some .randbelow → exec .randbelow s = .next t →
      0 ≤ signedOf s.cfg.xw (wideOf t.out) ∧ signedOf s.cfg.xw (wideOf t.out) ≤ (s.curD : Int)) ∧
    (s.curOp = some .randint → exec .randint s = .next t →
      s.curBase ≤ signedOf s.cfg.xw (wideOf t.out) ∧
      signedOf s.cfg.xw (wideOf t.out) ≤ s.curBase + (s.curD : Int))

/-- R211, the rule's closing inference: the engine's steps compute CUR_BASE + DrawAtMost(CUR_D): where the loop of R210
answers within `fuel` candidates, at most `fuel + 1` engine steps complete the command with that result and generator
state. -/
def Obligations.BoundedStepsComputeDrawAtMost : Prop :=
  ∀ (fuel : Nat) (s : State) (i : Instr) (r : Nat) (g : GeneratorState),
    i = .randbelow ∨ i = .randint → s.busy = true → s.curOp = some i → s.curK = bitlen s.curD →
    drawAtMost fuel s.curD s.gen = some (r, g) →
    ∃ n, 1 ≤ n ∧ n ≤ fuel + 1 ∧
      Sys2Proof.core.run n { s with schedule := List.replicate n .engine } =
        .next { s with
          schedule := [], turn := .engine, gen := g,
          out := wordsOf s.cfg.xwords (truncTo s.cfg.xw (s.curBase + (r : Int))), busy := false, curOp := none }

/-- R215, R247: there is no retry limit: while the loop of R210 has rejected every candidate, the command stays in flight
with its record, its operands and OUT as they were. -/
def Obligations.BoundedCommandNeverGivesUp : Prop :=
  ∀ (n : Nat) (s : State) (i : Instr),
    i = .randbelow ∨ i = .randint → s.turn = .engine → s.busy = true → s.curOp = some i →
    s.curK = bitlen s.curD → drawAtMost n s.curD s.gen = none →
    Sys2Proof.core.run n { s with schedule := List.replicate n .engine } =
      .next { s with schedule := [], gen := (drawWords (n * ceilDiv s.curK 32) s.gen).2 }

/-- R282: SEED, RANDOM and GETRANDBITS take exactly one engine step: presented to an idle engine and accepted, they have
completed after the engine step that follows, with ERR = OK and the host at its next transaction. -/
def Obligations.AcceptedCommandsCompleteInOneEngineStep : Prop :=
  ∀ (s t : State) (i : Instr) (rest : List HostOp),
    i = .seed ∨ i = .random ∨ i = .getrandbits → s.cfg.wf = true → s.schedule = [.host, .engine] → s.busy = false →
    s.program = cmdOp s.cfg i :: rest →
    exec i { s with schedule := [.engine], turn := .host, program := rest } = .next t → t.err = .ok →
    ∃ u, Sys2Proof.core.run 2 s = .next u ∧ exec i { t with schedule := [], turn := .engine } = .next u ∧
      u.busy = false ∧ u.curOp = none ∧ u.err = .ok ∧ u.program = rest

end Production

section Registers

/-- R60, R62: the register map: below 0x8000, an offset is that of a register the configuration has, or unmapped. -/
def Obligations.RegisterMapIsExact : Prop :=
  ∀ (c : Config) (off : Nat) (r : Reg), c.wf = true → off < 0x8000 →
    (decodeOffset c off = some r ↔ r.existsIn c = true ∧ offsetOf r = off)

/-- R61, R60: a 32-bit access at BASE plus the offset of a register reaches that register. -/
def Obligations.NamedAccessReachesItsRegister : Prop :=
  ∀ (c : Config) (r : Reg), c.wf = true → r.existsIn c = true → locate c (accessOf c r) = .ok (some r)

/-- R62: an unmapped offset reads as 0 and ignores writes, with no other effect, whatever BUSY is; the slots of KEY at
and above KEYMAX, and of OPA, OPB and OUT at and above XWORDS, are unmapped. -/
def Obligations.UnmappedOffsetsReadZeroAndIgnoreWrites : Prop :=
  (∀ (s : State) (q : List Turn) (a : Access) (v : Word) (rest : List HostOp),
    s.nextTurn = (.host, q) → locate s.cfg a = .ok none →
    (s.program = .write a v :: rest →
      step s = .next { s with schedule := q, turn := .host, program := rest }) ∧
    (s.program = .read a :: rest →
      step s = .next { s with schedule := q, turn := .host, program := rest, results := s.results ++ [0#32] })) ∧
  ∀ (c : Config) (n : Nat), c.wf = true → n < 1024 →
    (c.keymax ≤ n → locate c (accessOf c (.key n)) = .ok none) ∧
    (c.xwords ≤ n → locate c (accessOf c (.opa n)) = .ok none ∧ locate c (accessOf c (.opb n)) = .ok none ∧
      locate c (accessOf c (.out n)) = .ok none)

/-- R67: while BUSY = 1 a host write to CMD or to an operand register is dropped and sets OVR, and nothing else changes;
a write to STATUS is performed whatever BUSY is. -/
def Obligations.WritesAreDroppedWhileBusy : Prop :=
  ∀ (s : State) (v : Word), s.turn = .host →
    (s.busy = true → ∀ r : Reg, r.existsIn s.cfg = true → r = .cmd ∨ r.isOperand = true →
      writeReg (some r) v s = .next { s with ovr := true }) ∧
    writeReg (some .status) v s = .next { s with ovr := if v.getLsbD 2 then false else s.ovr }

/-- R37: OVR is set by a host write to CMD or to an operand register while BUSY = 1; it is cleared by a host write to
STATUS with bit 2 = 1 and by reset. Nothing else sets it, and nothing else clears it. -/
def Obligations.OverrunIsSetByDroppedWritesAndClearedByStatusOrReset : Prop :=
  (∀ (s : State) (r : Reg) (v : Word), s.turn = .host → s.busy = true → r = .cmd ∨ r.isOperand = true →
    ∃ t, writeReg (some r) v s = .next t ∧ t.ovr = true) ∧
  (∀ (s : State) (v : Word), v.getLsbD 2 = true → ∃ t, writeReg (some .status) v s = .next t ∧ t.ovr = false) ∧
  (∀ (s : State) (q : List Turn), s.nextTurn = (.reset, q) → ∃ t, step s = .next t ∧ t.ovr = false) ∧
  ∀ s t : State, step s = .next t →
    (s.ovr = true → t.ovr = false →
      (∃ q, s.nextTurn = (.reset, q)) ∨
      ∃ q a v rest, s.nextTurn = (.host, q) ∧ s.program = .write a v :: rest ∧
        locate s.cfg a = .ok (some .status) ∧ v.getLsbD 2 = true) ∧
    (s.ovr = false → t.ovr = true →
      s.busy = true ∧ ∃ q a v rest r, s.nextTurn = (.host, q) ∧ s.program = .write a v :: rest ∧
        locate s.cfg a = .ok (some r) ∧ (r = .cmd ∨ r.isOperand = true))

/-- R63, R65: an idle engine's RW register takes the whole written word: it reads back, every other register reads as
before, and the generator state is untouched. -/
def Obligations.IdleWriteIsReadBack : Prop :=
  ∀ (s : State) (r : Reg) (v : Word), s.sizesOk → s.busy = false → r.isOperand = true → r.existsIn s.cfg = true →
    ∃ t, writeReg (some r) v s = .next t ∧ (readReg (some r) t).1 = v ∧ t.busy = false ∧ t.gen = s.gen ∧
      ∀ r', r' ≠ r → (readReg (some r') t).1 = (readReg (some r') s).1

/-- R69, R68: no read changes the state of the engine; a read of OUT[w] while BUSY = 1 returns a free draw (and the model
counts it, log entry 2), and OUT[w] itself once BUSY = 0. -/
def Obligations.ReadsHaveNoSideEffect : Prop :=
  ∀ (s : State) (r : Option Reg),
    (readReg r s).2 = { s with freeDraws := (readReg r s).2.freeDraws } ∧
    (∀ w, r = some (.out w) → s.busy = true → (readReg r s).1 = Config.freeOut s.cfg.base w s.freeDraws) ∧
    (∀ w, r = some (.out w) → s.busy = false → readReg r s = (wordAt s.out w, s)) ∧
    ((∀ w, r ≠ some (.out w)) → (readReg r s).2 = s)

/-- R35: the fields of STATUS, its reserved bits, and what a host write to STATUS does, whatever BUSY is. -/
def Obligations.StatusRegisterHasItsFields : Prop :=
  ∀ s : State,
    readReg (some .status) s = (s.statusWord, s) ∧
    s.statusWord.getLsbD 0 = s.busy ∧ s.statusWord.getLsbD 1 = s.seeded ∧ s.statusWord.getLsbD 2 = s.ovr ∧
    s.statusWord.getLsbD 3 = false ∧ s.statusWord.extractLsb' 4 4 = s.err.code ∧
    (∀ n, 8 ≤ n → s.statusWord.getLsbD n = false) ∧ State.reset.statusWord = 0#32 ∧
    ∀ v : Word, writeReg (some .status) v s = .next { s with ovr := if v.getLsbD 2 then false else s.ovr }

/-- R41: the fields of INFO and its reserved bits; it is read-only and no step changes it. A host write to the other
read-only register, OUT[w] (R45, R63), changes nothing either, OVR included, whatever BUSY is. -/
def Obligations.InfoRegisterHoldsTheConfiguration : Prop :=
  (∀ c : Config, c.wf = true →
    (Config.infoWord c).toNat % 2 ^ 11 = c.keymax ∧ (Config.infoWord c).toNat / 2 ^ 11 % 2 ^ 5 = 0 ∧
    (Config.infoWord c).toNat / 2 ^ 16 % 2 ^ 11 = c.xwords ∧ (Config.infoWord c).toNat / 2 ^ 27 = 0) ∧
  (∀ (s : State) (v : Word),
    readReg (some .info) s = (Config.infoWord s.cfg, s) ∧ writeReg (some .info) v s = .next s ∧
    ∀ w, writeReg (some (.out w)) v s = .next s) ∧
  ∀ s t : State, step s = .next t → (readReg (some .info) t).1 = (readReg (some .info) s).1

/-- R65, R73: an access of another width than 32 bits, a misaligned one, and a transaction of a second host are refused
by name. That the width is looked at before the alignment (log entry 7), and that a second host is a choice of the schedule
(log entry 8), is the model's choice. -/
def Obligations.AccessesOutsideTheInterfaceAreRefused : Prop :=
  ∀ (s : State) (q : List Turn),
    (s.nextTurn = (.secondHost, q) → step s = .refused .secondHost) ∧
    ∀ (a : Access) (v : Word) (rest : List HostOp),
      s.nextTurn = (.host, q) → s.program = .write a v :: rest ∨ s.program = .read a :: rest →
      (a.bytes ≠ 4 → step s = .refused .accessWidth) ∧
      (a.bytes = 4 → a.addr % 4 ≠ 0 → step s = .refused .accessAlignment)

/-- R63, R35 to R45, R62: what a host read of each register returns while BUSY = 0, with no change of any state; CMD,
which holds no value, and an unmapped offset return 0. -/
def Obligations.IdleReadsReturnTheRegisters : Prop :=
  ∀ s : State, s.busy = false →
    readReg none s = (0#32, s) ∧ readReg (some .cmd) s = (0#32, s) ∧ readReg (some .status) s = (s.statusWord, s) ∧
    readReg (some .argK) s = (s.argK, s) ∧ readReg (some .keyLen) s = (s.keyLen, s) ∧
    readReg (some .info) s = (Config.infoWord s.cfg, s) ∧
    (∀ j x, s.key[j]? = some x → readReg (some (.key j)) s = (x, s)) ∧
    (∀ w x, s.opa[w]? = some x → readReg (some (.opa w)) s = (x, s)) ∧
    (∀ w x, s.opb[w]? = some x → readReg (some (.opb w)) s = (x, s)) ∧
    (∀ w x, s.out[w]? = some x → readReg (some (.out w)) s = (x, s))

/-- R101, R283: a POLL is a read of STATUS that the host repeats while the word read has BUSY = 1, and leaves behind with
the first that has BUSY = 0. -/
def Obligations.PollRepeatsWhileBusy : Prop :=
  ∀ (s : State) (q : List Turn) (rest : List HostOp), s.nextTurn = (.host, q) → s.program = .poll :: rest →
    (s.busy = true →
      step s = .next { s with schedule := q, turn := .host, results := s.results ++ [s.statusWord] }) ∧
    (s.busy = false →
      step s = .next { s with
        schedule := q, turn := .host, program := rest, results := s.results ++ [s.statusWord] })

/-- R121, inferences the spec marks as derived: the key words of a seed spell its magnitude, their number is
ceil(bitlen / 32) but 1 for seed 0, the last is not 0 but for seed 0, and s and -s have the same. -/
def Obligations.SeedWordsSpellTheSeed : Prop :=
  ∀ x : Int,
    wideOf (seedWords x) = x.natAbs ∧ seedWords (-x) = seedWords x ∧
    (x = 0 → seedWords x = [0#32]) ∧
    (x ≠ 0 → 32 * ((seedWords x).length - 1) < bitlen x.natAbs ∧ bitlen x.natAbs ≤ 32 * (seedWords x).length ∧
      (seedWords x).getLast? ≠ some 0#32)

end Registers

section WholeMachine

/-- R50: State.reset and the state after every reset event hold the values R50 gives. The reset event, whenever it comes,
abandons a command in flight (R270); the configuration, which is no state, stays. What R50 leaves unspecified is not
stated. -/
def Obligations.ResetGivesTheResetValues : Prop :=
  (∀ (s : State) (q : List Turn), s.nextTurn = (.reset, q) → ∃ t, step s = .next t ∧ t.cfg = s.cfg) ∧
  ∀ t : State, (t = State.reset ∨ ∃ s q, s.nextTurn = (.reset, q) ∧ step s = .next t) →
    t.busy = false ∧ t.curOp = none ∧ t.seeded = false ∧ t.ovr = false ∧ t.err = .ok ∧ t.statusWord = 0#32 ∧
    t.argK = 0#32 ∧ t.keyLen = 0#32 ∧ t.key = List.replicate t.cfg.keymax 0#32 ∧
    t.opa = List.replicate t.cfg.xwords 0#32 ∧ t.opb = List.replicate t.cfg.xwords 0#32 ∧
    t.out = List.replicate t.cfg.xwords 0#32 ∧ (readReg (some .info) t).1 = Config.infoWord t.cfg

/-- R271, R256: with BUSY = 0 the engine does nothing, and with no transaction left the host does nothing; that
such a turn is a step at all is the model's choice (log entry 9). -/
def Obligations.IdleMachineStandsStill : Prop :=
  ∀ (s : State) (q : List Turn),
    (s.nextTurn = (.engine, q) → s.busy = false → step s = .next { s with schedule := q, turn := .engine }) ∧
    (s.nextTurn = (.host, q) → s.program = [] → step s = .next { s with schedule := q, turn := .host })

/-- The invariant holds right after reset, in every legal configuration. The clauses on CUR_K, CUR_D, CUR_BASE and IDX
rest on the model's reset values for them (log entry 5), which R50 leaves unspecified. -/
def Obligations.ResetStateSatisfiesTheInvariant : Prop :=
  State.reset.Inv ∧ ∀ c : Config, c.wf = true → (State.resetWith c).Inv

/-- R32, R34, R216 as one invariant that every step keeps, from every state that has it: IDX in [0, 624], the arrays at
their sizes, BUSY and CUR_OP together with ERR = OK, the in-flight record in its ranges, and the result of a bounded
command within the result register. After a reset event the clauses on IDX and the CUR_ fields rest on the model's reset
values (log entry 5). -/
def Obligations.EveryStepKeepsTheInvariant : Prop :=
  ∀ s t : State, s.Inv → step s = .next t → t.Inv

/-- R31, R45, R64: no host transaction changes MT, IDX, SEEDED or OUT: only the engine's steps and reset do. -/
def Obligations.HostTurnsKeepTheGeneratorAndOut : Prop :=
  ∀ (s t : State) (q : List Turn), step s = .next t → s.nextTurn = (.host, q) →
    t.gen = s.gen ∧ t.seeded = s.seeded ∧ t.out = s.out ∧ t.cfg = s.cfg

/-- R39 to R44, R246: an engine step changes no register the host writes, no outcome code, no OVR, and nothing of the
host. -/
def Obligations.EngineStepsKeepTheHostRegisters : Prop :=
  ∀ (s t : State) (q : List Turn), step s = .next t → s.nextTurn = (.engine, q) →
    t.argK = s.argK ∧ t.keyLen = s.keyLen ∧ t.key = s.key ∧ t.opa = s.opa ∧ t.opb = s.opb ∧ t.err = s.err ∧
    t.ovr = s.ovr ∧ t.cfg = s.cfg ∧ t.program = s.program ∧ t.results = s.results ∧ t.freeDraws = s.freeDraws

/-- R247, R33: an in-flight command cannot fail and ends only by an engine step or by reset; SEEDED, once set, is cleared
only by reset. -/
def Obligations.CommandsEndOnlyByCompletionOrReset : Prop :=
  (∀ (s : State) (q : List Turn), s.Inv → s.nextTurn = (.engine, q) → ∃ t, step s = .next t ∧ t.err = s.err) ∧
  ∀ s t : State, step s = .next t →
    (s.busy = true → t.busy = false → (∃ q, s.nextTurn = (.engine, q)) ∨ ∃ q, s.nextTurn = (.reset, q)) ∧
    (s.seeded = true → t.seeded = false → ∃ q, s.nextTurn = (.reset, q))

/-- R48, R254: engines side by side share no state: a step of one of them is its own step and leaves every other engine
as it was. -/
def Obligations.EnginesShareNoState : Prop :=
  ∀ (es us : List State) (n : Nat), stepAt n es = .next us →
    us.length = es.length ∧ (∀ m, m ≠ n → us[m]? = es[m]?) ∧
    ∀ s, es[n]? = some s → ∃ t, step s = .next t ∧ us[n]? = some t

end WholeMachine
end

