-- ==== Sys2Proof/Laws/Arith.lean ====
section
/-! SUPPORT. The small lemmas of the arithmetic notation: the counted loop, multi-word values, two's complement and bit
length. -/

namespace Sys2Proof.Machine

section Loop
variable {α : Type}

@[simp] theorem forRange_zero (body : Nat → α → α) (a : α) : forRange 0 body a = a := rfl

theorem forRange_succ (n : Nat) (body : Nat → α → α) (a : α) :
    forRange (n + 1) body a = body n (forRange n body a) := rfl

theorem forRange_const (f : α → α) (n : Nat) (a : α) : forRange n (fun _ => f) a = f^[n] a := by
  induction n with
  | zero => rfl
  | succ n ih => rw [forRange_succ, ih, Function.iterate_succ_apply']

/-- What every iteration keeps, the loop keeps. -/
theorem forRange_keeps (P : α → Prop) {n : Nat} {body : Nat → α → α} {a : α} (h : P a)
    (step : ∀ k b, k < n → P b → P (body k b)) : P (forRange n body a) := by
  induction n with
  | zero => exact h
  | succ n ih => exact step n _ (by omega) (ih fun k b hk => step k b (by omega))

/-- A relation indexed by the iteration that every iteration advances holds at the end of the loop. -/
theorem forRange_invariant (P : Nat → α → Prop) {n : Nat} {body : Nat → α → α} {a : α} (h : P 0 a)
    (step : ∀ k b, k < n → P k b → P (k + 1) (body k b)) : P n (forRange n body a) := by
  induction n with
  | zero => exact h
  | succ n ih => exact step n _ (by omega) (ih fun k b hk => step k b (by omega))

end Loop

section Words

@[simp] theorem wordAt_nil (w : Nat) : wordAt [] w = 0#32 := rfl
@[simp] theorem wordAt_cons_zero (x : Word) (xs : List Word) : wordAt (x :: xs) 0 = x := rfl
@[simp] theorem wordAt_cons_succ (x : Word) (xs : List Word) (w : Nat) :
    wordAt (x :: xs) (w + 1) = wordAt xs w := rfl

theorem wordAt_of_le {ws : List Word} {w : Nat} (h : ws.length ≤ w) : wordAt ws w = 0#32 := by
  rw [wordAt, List.getD_eq_default _ _ h]

theorem wordAt_set_self {ws : List Word} {w : Nat} (v : Word) (h : w < ws.length) :
    wordAt (ws.set w v) w = v := by
  simp [wordAt, List.getD_eq_getElem?_getD, h]

theorem wordAt_set_ne {ws : List Word} {w u : Nat} (v : Word) (h : w ≠ u) :
    wordAt (ws.set w v) u = wordAt ws u := by
  simp [wordAt, List.getD_eq_getElem?_getD, h]

@[simp] theorem wideOf_nil : wideOf [] = 0 := rfl
@[simp] theorem wideOf_cons (w : Word) (ws : List Word) : wideOf (w :: ws) = w.toNat + 2 ^ 32 * wideOf ws := rfl

theorem wideOf_lt (ws : List Word) : wideOf ws < 2 ^ (32 * ws.length) := by
  induction ws with
  | nil => simp
  | cons w ws ih =>
    have hw := w.isLt
    rw [wideOf_cons, List.length_cons, Nat.mul_succ, Nat.pow_add]
    nlinarith

theorem wideOf_append (a b : List Word) : wideOf (a ++ b) = wideOf a + 2 ^ (32 * a.length) * wideOf b := by
  induction a with
  | nil => simp
  | cons x xs ih =>
    rw [List.cons_append, wideOf_cons, ih, wideOf_cons, List.length_cons, Nat.mul_succ, Nat.pow_add]; ring

@[simp] theorem wordsOf_length (n v : Nat) : (wordsOf n v).length = n := by simp [wordsOf]

theorem wordAt_wordsOf {n w : Nat} (v : Nat) (h : w < n) :
    wordAt (wordsOf n v) w = BitVec.ofNat 32 (v / 2 ^ (32 * w)) := by
  simp [wordAt, wordsOf, List.getD_eq_getElem?_getD, h]

theorem wordsOf_succ (n v : Nat) : wordsOf (n + 1) v = BitVec.ofNat 32 v :: wordsOf n (v / 2 ^ 32) := by
  simp only [wordsOf, List.range_succ_eq_map, List.map_cons, List.map_map]
  congr 1
  · simp
  · refine List.map_congr_left fun w _ => ?_
    simp only [Function.comp_apply, Nat.succ_eq_add_one, Nat.div_div_eq_div_mul, ← Nat.pow_add]
    congr 3
    omega

/-- The words of a value hold its low 32 * n bits. -/
theorem wideOf_wordsOf (n v : Nat) : wideOf (wordsOf n v) = v % 2 ^ (32 * n) := by
  induction n generalizing v with
  | zero => simp [wordsOf, Nat.mod_one]
  | succ n ih =>
    rw [wordsOf_succ, wideOf_cons, ih, BitVec.toNat_ofNat, Nat.mul_succ, Nat.add_comm (32 * n), Nat.pow_add,
      Nat.mod_mul]

end Words

section Widths

@[simp] theorem bitlen_zero : bitlen 0 = 0 := rfl

/-- The bit length is the least width that holds the value. -/
theorem bitlen_le_iff {x k : Nat} : bitlen x ≤ k ↔ x < 2 ^ k := by
  unfold bitlen
  split
  · subst_vars; simp
  · rw [Nat.succ_le_iff, Nat.log2_lt ‹_›]

theorem lt_two_pow_bitlen (x : Nat) : x < 2 ^ bitlen x := bitlen_le_iff.mp le_rfl

theorem bitlen_eq_zero_iff {x : Nat} : bitlen x = 0 ↔ x = 0 := by
  rw [← Nat.le_zero, bitlen_le_iff]; simp

theorem truncTo_lt (n : Nat) (x : Int) : truncTo n x < 2 ^ n := by
  have h : (0 : Int) < 2 ^ n := by positivity
  have h1 := Int.emod_nonneg x h.ne'
  have h2 := Int.emod_lt_of_pos x h
  have h3 : ((2 ^ n : Nat) : Int) = 2 ^ n := by push_cast; rfl
  unfold truncTo
  omega

theorem truncTo_natCast {n v : Nat} (h : v < 2 ^ n) : truncTo n (v : Int) = v := by
  have h3 : ((2 ^ n : Nat) : Int) = 2 ^ n := by push_cast; rfl
  rw [truncTo, ← h3, ← Int.natCast_emod, Nat.mod_eq_of_lt h, Int.toNat_natCast]

theorem two_pow_pred {n : Nat} (h : 0 < n) : (2 : Int) ^ n = 2 * 2 ^ (n - 1) := by
  obtain ⟨m, rfl⟩ : ∃ m, n = m + 1 := ⟨n - 1, by omega⟩
  rw [Nat.add_sub_cancel, pow_succ]; ring

/-- A pattern of N bits reads as a value of the two's-complement range. -/
theorem signedOf_bounds {n v : Nat} (hn : 0 < n) (h : v < 2 ^ n) :
    -(2 ^ (n - 1) : Int) ≤ signedOf n v ∧ signedOf n v < (2 ^ (n - 1) : Int) := by
  have h2 := two_pow_pred hn
  have h3 : ((2 ^ n : Nat) : Int) = 2 ^ n := by push_cast; rfl
  have h4 : ((2 ^ (n - 1) : Nat) : Int) = 2 ^ (n - 1) := by push_cast; rfl
  have h5 : (0 : Int) < 2 ^ (n - 1) := by positivity
  unfold signedOf
  split <;> omega

/-- Reading back the pattern of a value of the two's-complement range gives the value. -/
theorem signedOf_truncTo {n : Nat} {x : Int} (hn : 0 < n) (h1 : -(2 ^ (n - 1) : Int) ≤ x)
    (h2 : x < (2 ^ (n - 1) : Int)) : signedOf n (truncTo n x) = x := by
  have hp := two_pow_pred hn
  have h4 : ((2 ^ (n - 1) : Nat) : Int) = 2 ^ (n - 1) := by push_cast; rfl
  rcases lt_or_ge x 0 with hx | hx
  · have he : x % 2 ^ n = x + 2 ^ n := by
      rw [← Int.add_emod_right, Int.emod_eq_of_lt] <;> omega
    unfold signedOf truncTo
    rw [he]
    split <;> omega
  · have he : x % 2 ^ n = x := Int.emod_eq_of_lt hx (by omega)
    unfold signedOf truncTo
    rw [he]
    split <;> omega

end Widths

end Sys2Proof.Machine
end

