-- ==== Sys2Proof/Laws/Generator.lean ====
section
/-! SUPPORT. The small lemmas of the generator: reads and writes of MT, and where IDX can stand. -/

namespace Sys2Proof.Machine

section Slots
variable (mt : Vector Word 624)

@[simp] theorem writeMT_toList (i : Nat) (v : Word) : (writeMT mt i v).toList = mt.toList.set i v := rfl

theorem readMT_writeMT_self {i : Nat} (v : Word) (h : i < 624) : readMT (writeMT mt i v) i = v := by
  simp [readMT, List.getD_eq_getElem?_getD, h]

theorem readMT_writeMT_ne {i j : Nat} (v : Word) (h : i ≠ j) : readMT (writeMT mt i v) j = readMT mt j := by
  simp [readMT, List.getD_eq_getElem?_getD, h]

theorem readMT_writeMT {i j : Nat} (v : Word) (h : i < 624) :
    readMT (writeMT mt i v) j = if i = j then v else readMT mt j := by
  split
  · subst_vars; exact readMT_writeMT_self mt v h
  · exact readMT_writeMT_ne mt v ‹_›

/-- Two arrays with the same word in every slot are the same array. -/
theorem mt_ext {mt mt' : Vector Word 624} (h : ∀ i, i < 624 → readMT mt i = readMT mt' i) : mt = mt' := by
  apply Vector.toList_inj.mp
  refine List.ext_getElem (by rw [Vector.length_toList, Vector.length_toList]) fun i h1 h2 => ?_
  have hi : i < 624 := by rwa [Vector.length_toList] at h1
  simpa [readMT, List.getD_eq_getElem?_getD, hi] using h i hi

end Slots

section Index
variable (g : GeneratorState)

theorem refill_idx_lt {g : GeneratorState} (h : g.idx ≤ 624) : (refill g).idx < 624 := by
  unfold refill
  split
  · exact Nat.succ_pos 623
  · omega

@[simp] theorem nextWord_idx : (nextWord g).2.idx = (refill g).idx + 1 := rfl
@[simp] theorem nextWord_mt : (nextWord g).2.mt = (refill g).mt := rfl

/-- IDX stays in [0, 624] (R32). -/
theorem nextWord_idx_le {g : GeneratorState} (h : g.idx ≤ 624) : (nextWord g).2.idx ≤ 624 := by
  have := refill_idx_lt h
  simp only [nextWord_idx]; omega

theorem getBits_idx_le {k : Nat} {g : GeneratorState} (h : g.idx ≤ 624) : (getBits k g).2.idx ≤ 624 :=
  forRange_keeps (fun acc : Nat × GeneratorState => acc.2.idx ≤ 624) h
    fun _ _ _ hb => nextWord_idx_le hb

@[simp] theorem initByArray_idx (key : List Word) : (initByArray key g).idx = 624 := rfl

end Index

@[simp] theorem drawWords_zero (g : GeneratorState) : drawWords 0 g = ([], g) := rfl

theorem drawWords_succ (n : Nat) (g : GeneratorState) :
    drawWords (n + 1) g = ((nextWord g).1 :: (drawWords n (nextWord g).2).1, (drawWords n (nextWord g).2).2) := rfl

theorem drawWords_succ_last (n : Nat) (g : GeneratorState) :
    drawWords (n + 1) g =
      ((drawWords n g).1 ++ [(nextWord (drawWords n g).2).1], (nextWord (drawWords n g).2).2) := by
  induction n generalizing g with
  | zero => rfl
  | succ n ih => rw [drawWords_succ, ih, drawWords_succ]; rfl

@[simp] theorem drawWords_length (n : Nat) (g : GeneratorState) : (drawWords n g).1.length = n := by
  induction n generalizing g with
  | zero => rfl
  | succ n ih => rw [drawWords_succ]; simp [ih]

theorem drawWords_add (m n : Nat) (g : GeneratorState) :
    (drawWords (m + n) g).2 = (drawWords n (drawWords m g).2).2 := by
  induction m generalizing g with
  | zero => simp
  | succ m ih => rw [show m + 1 + n = (m + n) + 1 by omega, drawWords_succ, drawWords_succ]; exact ih _

@[simp] theorem getBits_zero (g : GeneratorState) : getBits 0 g = (0, g) := rfl

end Sys2Proof.Machine
end

