-- ==== Sys2Proof/Laws/State.lean ====
section
/-! SUPPORT. One lemma per field per named update of the state, each true by unfolding, so that no later proof unfolds a
record update. -/

namespace Sys2Proof.Machine

section
variable (s : State) (e : ErrCode)

@[simp] theorem State.raise_cfg : (s.raise e).cfg = s.cfg := rfl
@[simp] theorem State.raise_gen : (s.raise e).gen = s.gen := rfl
@[simp] theorem State.raise_seeded : (s.raise e).seeded = s.seeded := rfl
@[simp] theorem State.raise_busy : (s.raise e).busy = s.busy := rfl
@[simp] theorem State.raise_curOp : (s.raise e).curOp = s.curOp := rfl
@[simp] theorem State.raise_curK : (s.raise e).curK = s.curK := rfl
@[simp] theorem State.raise_curD : (s.raise e).curD = s.curD := rfl
@[simp] theorem State.raise_curBase : (s.raise e).curBase = s.curBase := rfl
@[simp] theorem State.raise_ovr : (s.raise e).ovr = s.ovr := rfl
@[simp] theorem State.raise_err : (s.raise e).err = e := rfl
@[simp] theorem State.raise_argK : (s.raise e).argK = s.argK := rfl
@[simp] theorem State.raise_keyLen : (s.raise e).keyLen = s.keyLen := rfl
@[simp] theorem State.raise_key : (s.raise e).key = s.key := rfl
@[simp] theorem State.raise_opa : (s.raise e).opa = s.opa := rfl
@[simp] theorem State.raise_opb : (s.raise e).opb = s.opb := rfl
@[simp] theorem State.raise_out : (s.raise e).out = s.out := rfl
@[simp] theorem State.raise_program : (s.raise e).program = s.program := rfl
@[simp] theorem State.raise_results : (s.raise e).results = s.results := rfl
@[simp] theorem State.raise_schedule : (s.raise e).schedule = s.schedule := rfl
@[simp] theorem State.raise_turn : (s.raise e).turn = s.turn := rfl
@[simp] theorem State.raise_freeDraws : (s.raise e).freeDraws = s.freeDraws := rfl

end

section
variable (s : State) (i : Instr)

@[simp] theorem State.accept_cfg : (s.accept i).cfg = s.cfg := rfl
@[simp] theorem State.accept_gen : (s.accept i).gen = s.gen := rfl
@[simp] theorem State.accept_seeded : (s.accept i).seeded = s.seeded := rfl
@[simp] theorem State.accept_busy : (s.accept i).busy = true := rfl
@[simp] theorem State.accept_curOp : (s.accept i).curOp = some i := rfl
@[simp] theorem State.accept_curK : (s.accept i).curK = s.curK := rfl
@[simp] theorem State.accept_curD : (s.accept i).curD = s.curD := rfl
@[simp] theorem State.accept_curBase : (s.accept i).curBase = s.curBase := rfl
@[simp] theorem State.accept_ovr : (s.accept i).ovr = s.ovr := rfl
@[simp] theorem State.accept_err : (s.accept i).err = .ok := rfl
@[simp] theorem State.accept_argK : (s.accept i).argK = s.argK := rfl
@[simp] theorem State.accept_keyLen : (s.accept i).keyLen = s.keyLen := rfl
@[simp] theorem State.accept_key : (s.accept i).key = s.key := rfl
@[simp] theorem State.accept_opa : (s.accept i).opa = s.opa := rfl
@[simp] theorem State.accept_opb : (s.accept i).opb = s.opb := rfl
@[simp] theorem State.accept_out : (s.accept i).out = s.out := rfl
@[simp] theorem State.accept_program : (s.accept i).program = s.program := rfl
@[simp] theorem State.accept_results : (s.accept i).results = s.results := rfl
@[simp] theorem State.accept_schedule : (s.accept i).schedule = s.schedule := rfl
@[simp] theorem State.accept_turn : (s.accept i).turn = s.turn := rfl
@[simp] theorem State.accept_freeDraws : (s.accept i).freeDraws = s.freeDraws := rfl

end

section
variable (s : State)

@[simp] theorem State.complete_cfg : (s.complete).cfg = s.cfg := rfl
@[simp] theorem State.complete_gen : (s.complete).gen = s.gen := rfl
@[simp] theorem State.complete_seeded : (s.complete).seeded = s.seeded := rfl
@[simp] theorem State.complete_busy : (s.complete).busy = false := rfl
@[simp] theorem State.complete_curOp : (s.complete).curOp = none := rfl
@[simp] theorem State.complete_curK : (s.complete).curK = s.curK := rfl
@[simp] theorem State.complete_curD : (s.complete).curD = s.curD := rfl
@[simp] theorem State.complete_curBase : (s.complete).curBase = s.curBase := rfl
@[simp] theorem State.complete_ovr : (s.complete).ovr = s.ovr := rfl
@[simp] theorem State.complete_err : (s.complete).err = s.err := rfl
@[simp] theorem State.complete_argK : (s.complete).argK = s.argK := rfl
@[simp] theorem State.complete_keyLen : (s.complete).keyLen = s.keyLen := rfl
@[simp] theorem State.complete_key : (s.complete).key = s.key := rfl
@[simp] theorem State.complete_opa : (s.complete).opa = s.opa := rfl
@[simp] theorem State.complete_opb : (s.complete).opb = s.opb := rfl
@[simp] theorem State.complete_out : (s.complete).out = s.out := rfl
@[simp] theorem State.complete_program : (s.complete).program = s.program := rfl
@[simp] theorem State.complete_results : (s.complete).results = s.results := rfl
@[simp] theorem State.complete_schedule : (s.complete).schedule = s.schedule := rfl
@[simp] theorem State.complete_turn : (s.complete).turn = s.turn := rfl
@[simp] theorem State.complete_freeDraws : (s.complete).freeDraws = s.freeDraws := rfl

end

section
variable (s : State)

@[simp] theorem State.dropWrite_cfg : (s.dropWrite).cfg = s.cfg := rfl
@[simp] theorem State.dropWrite_gen : (s.dropWrite).gen = s.gen := rfl
@[simp] theorem State.dropWrite_seeded : (s.dropWrite).seeded = s.seeded := rfl
@[simp] theorem State.dropWrite_busy : (s.dropWrite).busy = s.busy := rfl
@[simp] theorem State.dropWrite_curOp : (s.dropWrite).curOp = s.curOp := rfl
@[simp] theorem State.dropWrite_curK : (s.dropWrite).curK = s.curK := rfl
@[simp] theorem State.dropWrite_curD : (s.dropWrite).curD = s.curD := rfl
@[simp] theorem State.dropWrite_curBase : (s.dropWrite).curBase = s.curBase := rfl
@[simp] theorem State.dropWrite_ovr : (s.dropWrite).ovr = true := rfl
@[simp] theorem State.dropWrite_err : (s.dropWrite).err = s.err := rfl
@[simp] theorem State.dropWrite_argK : (s.dropWrite).argK = s.argK := rfl
@[simp] theorem State.dropWrite_keyLen : (s.dropWrite).keyLen = s.keyLen := rfl
@[simp] theorem State.dropWrite_key : (s.dropWrite).key = s.key := rfl
@[simp] theorem State.dropWrite_opa : (s.dropWrite).opa = s.opa := rfl
@[simp] theorem State.dropWrite_opb : (s.dropWrite).opb = s.opb := rfl
@[simp] theorem State.dropWrite_out : (s.dropWrite).out = s.out := rfl
@[simp] theorem State.dropWrite_program : (s.dropWrite).program = s.program := rfl
@[simp] theorem State.dropWrite_results : (s.dropWrite).results = s.results := rfl
@[simp] theorem State.dropWrite_schedule : (s.dropWrite).schedule = s.schedule := rfl
@[simp] theorem State.dropWrite_turn : (s.dropWrite).turn = s.turn := rfl
@[simp] theorem State.dropWrite_freeDraws : (s.dropWrite).freeDraws = s.freeDraws := rfl

end

section
variable (s : State) (v : Nat)

@[simp] theorem State.putOut_cfg : (s.putOut v).cfg = s.cfg := rfl
@[simp] theorem State.putOut_gen : (s.putOut v).gen = s.gen := rfl
@[simp] theorem State.putOut_seeded : (s.putOut v).seeded = s.seeded := rfl
@[simp] theorem State.putOut_busy : (s.putOut v).busy = s.busy := rfl
@[simp] theorem State.putOut_curOp : (s.putOut v).curOp = s.curOp := rfl
@[simp] theorem State.putOut_curK : (s.putOut v).curK = s.curK := rfl
@[simp] theorem State.putOut_curD : (s.putOut v).curD = s.curD := rfl
@[simp] theorem State.putOut_curBase : (s.putOut v).curBase = s.curBase := rfl
@[simp] theorem State.putOut_ovr : (s.putOut v).ovr = s.ovr := rfl
@[simp] theorem State.putOut_err : (s.putOut v).err = s.err := rfl
@[simp] theorem State.putOut_argK : (s.putOut v).argK = s.argK := rfl
@[simp] theorem State.putOut_keyLen : (s.putOut v).keyLen = s.keyLen := rfl
@[simp] theorem State.putOut_key : (s.putOut v).key = s.key := rfl
@[simp] theorem State.putOut_opa : (s.putOut v).opa = s.opa := rfl
@[simp] theorem State.putOut_opb : (s.putOut v).opb = s.opb := rfl
@[simp] theorem State.putOut_out : (s.putOut v).out = wordsOf s.cfg.xwords v := rfl
@[simp] theorem State.putOut_program : (s.putOut v).program = s.program := rfl
@[simp] theorem State.putOut_results : (s.putOut v).results = s.results := rfl
@[simp] theorem State.putOut_schedule : (s.putOut v).schedule = s.schedule := rfl
@[simp] theorem State.putOut_turn : (s.putOut v).turn = s.turn := rfl
@[simp] theorem State.putOut_freeDraws : (s.putOut v).freeDraws = s.freeDraws := rfl

end

section
variable (s : State) (g : GeneratorState)

@[simp] theorem State.putGen_cfg : (s.putGen g).cfg = s.cfg := rfl
@[simp] theorem State.putGen_gen : (s.putGen g).gen = g := rfl
@[simp] theorem State.putGen_seeded : (s.putGen g).seeded = s.seeded := rfl
@[simp] theorem State.putGen_busy : (s.putGen g).busy = s.busy := rfl
@[simp] theorem State.putGen_curOp : (s.putGen g).curOp = s.curOp := rfl
@[simp] theorem State.putGen_curK : (s.putGen g).curK = s.curK := rfl
@[simp] theorem State.putGen_curD : (s.putGen g).curD = s.curD := rfl
@[simp] theorem State.putGen_curBase : (s.putGen g).curBase = s.curBase := rfl
@[simp] theorem State.putGen_ovr : (s.putGen g).ovr = s.ovr := rfl
@[simp] theorem State.putGen_err : (s.putGen g).err = s.err := rfl
@[simp] theorem State.putGen_argK : (s.putGen g).argK = s.argK := rfl
@[simp] theorem State.putGen_keyLen : (s.putGen g).keyLen = s.keyLen := rfl
@[simp] theorem State.putGen_key : (s.putGen g).key = s.key := rfl
@[simp] theorem State.putGen_opa : (s.putGen g).opa = s.opa := rfl
@[simp] theorem State.putGen_opb : (s.putGen g).opb = s.opb := rfl
@[simp] theorem State.putGen_out : (s.putGen g).out = s.out := rfl
@[simp] theorem State.putGen_program : (s.putGen g).program = s.program := rfl
@[simp] theorem State.putGen_results : (s.putGen g).results = s.results := rfl
@[simp] theorem State.putGen_schedule : (s.putGen g).schedule = s.schedule := rfl
@[simp] theorem State.putGen_turn : (s.putGen g).turn = s.turn := rfl
@[simp] theorem State.putGen_freeDraws : (s.putGen g).freeDraws = s.freeDraws := rfl

end

section
variable (s : State) (d : Nat) (b : Int)

@[simp] theorem State.latchBound_cfg : (s.latchBound d b).cfg = s.cfg := rfl
@[simp] theorem State.latchBound_gen : (s.latchBound d b).gen = s.gen := rfl
@[simp] theorem State.latchBound_seeded : (s.latchBound d b).seeded = s.seeded := rfl
@[simp] theorem State.latchBound_busy : (s.latchBound d b).busy = s.busy := rfl
@[simp] theorem State.latchBound_curOp : (s.latchBound d b).curOp = s.curOp := rfl
@[simp] theorem State.latchBound_curK : (s.latchBound d b).curK = bitlen d := rfl
@[simp] theorem State.latchBound_curD : (s.latchBound d b).curD = d := rfl
@[simp] theorem State.latchBound_curBase : (s.latchBound d b).curBase = b := rfl
@[simp] theorem State.latchBound_ovr : (s.latchBound d b).ovr = s.ovr := rfl
@[simp] theorem State.latchBound_err : (s.latchBound d b).err = s.err := rfl
@[simp] theorem State.latchBound_argK : (s.latchBound d b).argK = s.argK := rfl
@[simp] theorem State.latchBound_keyLen : (s.latchBound d b).keyLen = s.keyLen := rfl
@[simp] theorem State.latchBound_key : (s.latchBound d b).key = s.key := rfl
@[simp] theorem State.latchBound_opa : (s.latchBound d b).opa = s.opa := rfl
@[simp] theorem State.latchBound_opb : (s.latchBound d b).opb = s.opb := rfl
@[simp] theorem State.latchBound_out : (s.latchBound d b).out = s.out := rfl
@[simp] theorem State.latchBound_program : (s.latchBound d b).program = s.program := rfl
@[simp] theorem State.latchBound_results : (s.latchBound d b).results = s.results := rfl
@[simp] theorem State.latchBound_schedule : (s.latchBound d b).schedule = s.schedule := rfl
@[simp] theorem State.latchBound_turn : (s.latchBound d b).turn = s.turn := rfl
@[simp] theorem State.latchBound_freeDraws : (s.latchBound d b).freeDraws = s.freeDraws := rfl

end

section
variable (s : State) (v : Word)

@[simp] theorem State.record_cfg : (s.record v).cfg = s.cfg := rfl
@[simp] theorem State.record_gen : (s.record v).gen = s.gen := rfl
@[simp] theorem State.record_seeded : (s.record v).seeded = s.seeded := rfl
@[simp] theorem State.record_busy : (s.record v).busy = s.busy := rfl
@[simp] theorem State.record_curOp : (s.record v).curOp = s.curOp := rfl
@[simp] theorem State.record_curK : (s.record v).curK = s.curK := rfl
@[simp] theorem State.record_curD : (s.record v).curD = s.curD := rfl
@[simp] theorem State.record_curBase : (s.record v).curBase = s.curBase := rfl
@[simp] theorem State.record_ovr : (s.record v).ovr = s.ovr := rfl
@[simp] theorem State.record_err : (s.record v).err = s.err := rfl
@[simp] theorem State.record_argK : (s.record v).argK = s.argK := rfl
@[simp] theorem State.record_keyLen : (s.record v).keyLen = s.keyLen := rfl
@[simp] theorem State.record_key : (s.record v).key = s.key := rfl
@[simp] theorem State.record_opa : (s.record v).opa = s.opa := rfl
@[simp] theorem State.record_opb : (s.record v).opb = s.opb := rfl
@[simp] theorem State.record_out : (s.record v).out = s.out := rfl
@[simp] theorem State.record_program : (s.record v).program = s.program := rfl
@[simp] theorem State.record_results : (s.record v).results = s.results ++ [v] := rfl
@[simp] theorem State.record_schedule : (s.record v).schedule = s.schedule := rfl
@[simp] theorem State.record_turn : (s.record v).turn = s.turn := rfl
@[simp] theorem State.record_freeDraws : (s.record v).freeDraws = s.freeDraws := rfl

end

section
variable (s : State) (op : HostOp)

@[simp] theorem State.withNextOp_cfg : (s.withNextOp op).cfg = s.cfg := rfl
@[simp] theorem State.withNextOp_gen : (s.withNextOp op).gen = s.gen := rfl
@[simp] theorem State.withNextOp_seeded : (s.withNextOp op).seeded = s.seeded := rfl
@[simp] theorem State.withNextOp_busy : (s.withNextOp op).busy = s.busy := rfl
@[simp] theorem State.withNextOp_curOp : (s.withNextOp op).curOp = s.curOp := rfl
@[simp] theorem State.withNextOp_curK : (s.withNextOp op).curK = s.curK := rfl
@[simp] theorem State.withNextOp_curD : (s.withNextOp op).curD = s.curD := rfl
@[simp] theorem State.withNextOp_curBase : (s.withNextOp op).curBase = s.curBase := rfl
@[simp] theorem State.withNextOp_ovr : (s.withNextOp op).ovr = s.ovr := rfl
@[simp] theorem State.withNextOp_err : (s.withNextOp op).err = s.err := rfl
@[simp] theorem State.withNextOp_argK : (s.withNextOp op).argK = s.argK := rfl
@[simp] theorem State.withNextOp_keyLen : (s.withNextOp op).keyLen = s.keyLen := rfl
@[simp] theorem State.withNextOp_key : (s.withNextOp op).key = s.key := rfl
@[simp] theorem State.withNextOp_opa : (s.withNextOp op).opa = s.opa := rfl
@[simp] theorem State.withNextOp_opb : (s.withNextOp op).opb = s.opb := rfl
@[simp] theorem State.withNextOp_out : (s.withNextOp op).out = s.out := rfl
@[simp] theorem State.withNextOp_program : (s.withNextOp op).program = op :: s.program := rfl
@[simp] theorem State.withNextOp_results : (s.withNextOp op).results = s.results := rfl
@[simp] theorem State.withNextOp_schedule : (s.withNextOp op).schedule = .host :: s.schedule := rfl
@[simp] theorem State.withNextOp_turn : (s.withNextOp op).turn = s.turn := rfl
@[simp] theorem State.withNextOp_freeDraws : (s.withNextOp op).freeDraws = s.freeDraws := rfl

end

section
variable (s : State)

@[simp] theorem State.resetEvent_cfg : (s.resetEvent).cfg = s.cfg := rfl
@[simp] theorem State.resetEvent_gen : (s.resetEvent).gen = (State.resetWith s.cfg).gen := rfl
@[simp] theorem State.resetEvent_seeded : (s.resetEvent).seeded = (State.resetWith s.cfg).seeded := rfl
@[simp] theorem State.resetEvent_busy : (s.resetEvent).busy = (State.resetWith s.cfg).busy := rfl
@[simp] theorem State.resetEvent_curOp : (s.resetEvent).curOp = (State.resetWith s.cfg).curOp := rfl
@[simp] theorem State.resetEvent_curK : (s.resetEvent).curK = (State.resetWith s.cfg).curK := rfl
@[simp] theorem State.resetEvent_curD : (s.resetEvent).curD = (State.resetWith s.cfg).curD := rfl
@[simp] theorem State.resetEvent_curBase : (s.resetEvent).curBase = (State.resetWith s.cfg).curBase := rfl
@[simp] theorem State.resetEvent_ovr : (s.resetEvent).ovr = (State.resetWith s.cfg).ovr := rfl
@[simp] theorem State.resetEvent_err : (s.resetEvent).err = (State.resetWith s.cfg).err := rfl
@[simp] theorem State.resetEvent_argK : (s.resetEvent).argK = (State.resetWith s.cfg).argK := rfl
@[simp] theorem State.resetEvent_keyLen : (s.resetEvent).keyLen = (State.resetWith s.cfg).keyLen := rfl
@[simp] theorem State.resetEvent_key : (s.resetEvent).key = (State.resetWith s.cfg).key := rfl
@[simp] theorem State.resetEvent_opa : (s.resetEvent).opa = (State.resetWith s.cfg).opa := rfl
@[simp] theorem State.resetEvent_opb : (s.resetEvent).opb = (State.resetWith s.cfg).opb := rfl
@[simp] theorem State.resetEvent_out : (s.resetEvent).out = (State.resetWith s.cfg).out := rfl
@[simp] theorem State.resetEvent_program : (s.resetEvent).program = s.program := rfl
@[simp] theorem State.resetEvent_results : (s.resetEvent).results = s.results := rfl
@[simp] theorem State.resetEvent_schedule : (s.resetEvent).schedule = s.schedule := rfl
@[simp] theorem State.resetEvent_turn : (s.resetEvent).turn = s.turn := rfl
@[simp] theorem State.resetEvent_freeDraws : (s.resetEvent).freeDraws = s.freeDraws := rfl

end

end Sys2Proof.Machine
end

