-- ==== Sys2Proof/Laws/Ops.lean ====
section
/-! SUPPORT. For each shared operation, what it can do, said once; the provers cite these instead of unfolding. -/

namespace Sys2Proof.Machine

section Acceptance
variable {s t : State} {i : Instr} {check : State → Except ErrCode State} {run : State → State}

theorem onCmdWrite_busy (h : s.busy = true) : s.onCmdWrite i check = s.dropWrite := by
  simp [State.onCmdWrite, h]

theorem onCmdWrite_not_seeded (h : s.busy = false) (hi : i ≠ .seed) (hs : s.seeded = false) :
    s.onCmdWrite i check = s.raise .notSeeded := by
  simp [State.onCmdWrite, h, hi, hs]

theorem onCmdWrite_error {e : ErrCode} (h : s.busy = false) (hs : i = .seed ∨ s.seeded = true)
    (hc : check s = .error e) : s.onCmdWrite i check = s.raise e := by
  rcases hs with rfl | hs <;> simp [State.onCmdWrite, *]

theorem onCmdWrite_ok (h : s.busy = false) (hs : i = .seed ∨ s.seeded = true)
    (hc : check s = .ok t) : s.onCmdWrite i check = t.accept i := by
  rcases hs with rfl | hs <;> simp [State.onCmdWrite, *]

/-- What a command write can do (R240, R245). -/
theorem onCmdWrite_cases :
    (s.busy = true ∧ s.onCmdWrite i check = s.dropWrite) ∨
    (s.busy = false ∧ i ≠ .seed ∧ s.seeded = false ∧ s.onCmdWrite i check = s.raise .notSeeded) ∨
    (s.busy = false ∧ (i = .seed ∨ s.seeded = true) ∧ ∃ e, check s = .error e ∧ s.onCmdWrite i check = s.raise e) ∨
    (s.busy = false ∧ (i = .seed ∨ s.seeded = true) ∧ ∃ t, check s = .ok t ∧ s.onCmdWrite i check = t.accept i) := by
  rcases hb : s.busy with _ | _
  · by_cases hs : i = .seed ∨ s.seeded = true
    · rcases hc : check s with e | t
      · exact .inr (.inr (.inl ⟨rfl, hs, e, rfl, onCmdWrite_error hb hs hc⟩))
      · exact .inr (.inr (.inr ⟨rfl, hs, t, rfl, onCmdWrite_ok hb hs hc⟩))
    · push Not at hs
      have hs' : s.seeded = false := by simpa using hs.2
      exact .inr (.inl ⟨rfl, hs.1, hs', onCmdWrite_not_seeded hb hs.1 hs'⟩)
  · exact .inl ⟨rfl, onCmdWrite_busy hb⟩

theorem runCommand_host (h : s.turn = .host) : s.runCommand i check run = s.onCmdWrite i check := by
  simp [State.runCommand, h]

theorem runCommand_engine (h : s.turn = .engine) : s.runCommand i check run = run s := by
  simp [State.runCommand, h]

end Acceptance

section Checks
variable {s t : State} {e : ErrCode}

/-- The checks of R243, command by command: which error, or which in-flight record. -/
theorem seedCheck_cases :
    ((s.keyCount = 0 ∨ s.cfg.keymax < s.keyCount) ∧ seedCheck s = .error .operandRange) ∨
    (1 ≤ s.keyCount ∧ s.keyCount ≤ s.cfg.keymax ∧ seedCheck s = .ok s) := by
  unfold seedCheck
  split
  · exact .inl ⟨‹_›, rfl⟩
  · exact .inr ⟨by omega, by omega, rfl⟩

theorem getrandbitsCheck_cases :
    (s.kVal < 0 ∧ getrandbitsCheck s = .error .invalidArgument) ∨
    ((s.cfg.kmax : Int) < s.kVal ∧ getrandbitsCheck s = .error .operandRange) ∨
    (0 ≤ s.kVal ∧ s.kVal ≤ s.cfg.kmax ∧ getrandbitsCheck s = .ok { s with curK := s.kVal.toNat }) := by
  unfold getrandbitsCheck
  split
  · exact .inl ⟨‹_›, rfl⟩
  · split
    · exact .inr (.inl ⟨‹_›, rfl⟩)
    · exact .inr (.inr ⟨by omega, by omega, rfl⟩)

theorem randbelowCheck_cases :
    (s.opaVal ≤ 0 ∧ randbelowCheck s = .error .invalidArgument) ∨
    (0 < s.opaVal ∧ randbelowCheck s = .ok (s.latchBound (s.opaVal - 1).toNat 0)) := by
  unfold randbelowCheck
  split
  · exact .inl ⟨‹_›, rfl⟩
  · exact .inr ⟨by omega, rfl⟩

theorem randintCheck_cases :
    (s.opbVal < s.opaVal ∧ randintCheck s = .error .invalidArgument) ∨
    (s.opaVal ≤ s.opbVal ∧ randintCheck s = .ok (s.latchBound (s.opbVal - s.opaVal).toNat s.opaVal)) := by
  unfold randintCheck
  split
  · exact .inl ⟨‹_›, rfl⟩
  · exact .inr ⟨by omega, rfl⟩

end Checks

section Engine
variable {s : State}

/-- What one step of the controller can do (R211). -/
theorem boundedStep_cases :
    (s.curK = 0 ∧ boundedStep s = (s.putOut (truncTo s.cfg.xw s.curBase)).complete) ∨
    (s.curK ≠ 0 ∧ (getBits s.curK s.gen).1 ≤ s.curD ∧
      boundedStep s =
        ((s.putGen (getBits s.curK s.gen).2).putOut (s.boundedResult (getBits s.curK s.gen).1)).complete) ∨
    (s.curK ≠ 0 ∧ s.curD < (getBits s.curK s.gen).1 ∧ boundedStep s = s.putGen (getBits s.curK s.gen).2) := by
  unfold boundedStep
  split
  · exact .inl ⟨‹_›, rfl⟩
  · by_cases h : (getBits s.curK s.gen).1 ≤ s.curD
    · exact .inr (.inl ⟨‹_›, h, by simp [h]⟩)
    · exact .inr (.inr ⟨‹_›, by omega, by simp [h]⟩)

end Engine

section Commands
variable (s : State)

/-- The engine step of a command (R282). -/
def runOf : Instr → State → State
  | .seed        => seedRun
  | .random      => randomRun
  | .getrandbits => getrandbitsRun
  | .randbelow   => boundedStep
  | .randint     => boundedStep

/-- The acceptance check of a command (R243). -/
def checkOf : Instr → State → Except ErrCode State
  | .seed        => seedCheck
  | .random      => randomCheck
  | .getrandbits => getrandbitsCheck
  | .randbelow   => randbelowCheck
  | .randint     => randintCheck

@[simp] theorem runOf_seed : runOf .seed = seedRun := rfl
@[simp] theorem runOf_random : runOf .random = randomRun := rfl
@[simp] theorem runOf_getrandbits : runOf .getrandbits = getrandbitsRun := rfl
@[simp] theorem runOf_randbelow : runOf .randbelow = boundedStep := rfl
@[simp] theorem runOf_randint : runOf .randint = boundedStep := rfl
@[simp] theorem checkOf_seed : checkOf .seed = seedCheck := rfl
@[simp] theorem checkOf_random : checkOf .random = randomCheck := rfl
@[simp] theorem checkOf_getrandbits : checkOf .getrandbits = getrandbitsCheck := rfl
@[simp] theorem checkOf_randbelow : checkOf .randbelow = randbelowCheck := rfl
@[simp] theorem checkOf_randint : checkOf .randint = randintCheck := rfl

/-- Every command answers a next state in both its actions: no command faults or is refused by the model. -/
theorem exec_eq (i : Instr) : exec i s = .next (s.runCommand i (checkOf i) (runOf i)) := by
  cases i <;> rfl

theorem exec_host (i : Instr) (h : s.turn = .host) : exec i s = .next (s.onCmdWrite i (checkOf i)) := by
  rw [exec_eq, runCommand_host h]

theorem exec_engine (i : Instr) (h : s.turn = .engine) : exec i s = .next (runOf i s) := by
  rw [exec_eq, runCommand_engine h]

end Commands

section Registers
variable {r : Option Reg} {v : Word} {s : State}

/-- A read changes nothing but the count of free draws, and that only where a free draw was taken (R69, R68). -/
theorem readReg_state :
    (readReg r s).2 = s ∨
    (s.busy = true ∧ (∃ w, r = some (.out w)) ∧ (readReg r s).2 = { s with freeDraws := s.freeDraws + 1 }) := by
  unfold readReg
  split <;> try exact .inl rfl
  split
  · exact .inr ⟨‹_›, ⟨_, rfl⟩, rfl⟩
  · exact .inl rfl

theorem writeOperand_busy {u : State → State} (h : s.busy = true) : s.writeOperand u = s.dropWrite := by
  simp [State.writeOperand, h]

theorem writeOperand_idle {u : State → State} (h : s.busy = false) : s.writeOperand u = u s := by
  simp [State.writeOperand, h]

theorem writeReg_plain (h : r ≠ some .cmd) : writeReg r v s = .next (writePlain r v s) := by
  unfold writeReg; split
  · exact absurd rfl h
  · rfl

theorem writeReg_cmd_ok {i : Instr} (h : decode v = .ok i) : writeReg (some .cmd) v s = exec i s := by
  simp [writeReg, h]

theorem writeReg_cmd_error {e : DecodeError} (h : decode v = .error e) :
    writeReg (some .cmd) v s = .next s.onIllegalWrite := by
  simp [writeReg, h]

/-- The W1C action of STATUS (R35). -/
theorem writePlain_status :
    writePlain (some .status) v s = { s with ovr := if v.getLsbD 2 then false else s.ovr } := by
  by_cases h : v.getLsbD 2 = true
  · simp only [writePlain, clearsOverrun, h, if_true]
  · simp only [writePlain, clearsOverrun, h]; rfl

/-- No other write clears OVR (R37). -/
theorem writePlain_ovr (h : r ≠ some .status) (ho : s.ovr = true) : (writePlain r v s).ovr = true := by
  unfold writePlain State.writeOperand
  split <;> first | exact ho | exact absurd rfl h | (split <;> first | exact ho | rfl)

/-- While BUSY = 1 a write to anything but CMD changes OVR at most (R67). -/
theorem writePlain_busy (h : s.busy = true) :
    writePlain r v s = s ∨ writePlain r v s = s.dropWrite ∨ writePlain r v s = { s with ovr := false } := by
  unfold writePlain
  split <;> first
    | exact .inl rfl
    | exact .inr (.inl (writeOperand_busy h))
    | (split <;> first | exact .inr (.inr rfl) | exact .inl rfl)

/-- A write to anything but CMD touches only OVR and the operand registers (R63). -/
theorem writePlain_frame :
    (writePlain r v s).cfg = s.cfg ∧ (writePlain r v s).gen = s.gen ∧ (writePlain r v s).seeded = s.seeded ∧
    (writePlain r v s).busy = s.busy ∧ (writePlain r v s).curOp = s.curOp ∧ (writePlain r v s).curK = s.curK ∧
    (writePlain r v s).curD = s.curD ∧ (writePlain r v s).curBase = s.curBase ∧ (writePlain r v s).err = s.err ∧
    (writePlain r v s).out = s.out ∧ (writePlain r v s).turn = s.turn := by
  unfold writePlain State.writeOperand State.dropWrite
  split <;> (try split) <;> simp

/-- The sizes of the arrays survive a write. -/
theorem writePlain_lengths :
    (writePlain r v s).key.length = s.key.length ∧ (writePlain r v s).opa.length = s.opa.length ∧
    (writePlain r v s).opb.length = s.opb.length := by
  unfold writePlain State.writeOperand State.dropWrite
  split <;> (try split) <;> simp

end Registers

end Sys2Proof.Machine
end

