-- ==== Sys2Proof/Laws/PerInstr.lean ====
section
/-! SUPPORT. What is said of every command as syntax, one lemma per constructor of `Instr`. -/

namespace Sys2Proof.Laws.EncodesTableWord

/-- The encoding of the command is its word of the opcode map (R91): RSV is zero and OP is the command's value. -/
def Statement (i : Instr) : Prop :=
  encode i = Machine.commandWord i ∧ rsvField (encode i) = 0#28 ∧ opField (encode i) = opOf i

theorem seed : Statement .seed := by unfold Statement; decide
theorem random : Statement .random := by unfold Statement; decide
theorem getrandbits : Statement .getrandbits := by unfold Statement; decide
theorem randbelow : Statement .randbelow := by unfold Statement; decide
theorem randint : Statement .randint := by unfold Statement; decide

end Sys2Proof.Laws.EncodesTableWord
end

