-- ==== Sys2Proof/Laws/Step.lean ====
section
/-! SUPPORT. What one step of the machine can do, by whose turn it is. -/

namespace Sys2Proof.Machine

section Turns
variable {s : State} {q : List Turn}

theorem step_of_turn {t : Turn} (h : s.nextTurn = (t, q)) : step s = takeTurn t { s with schedule := q } := by
  simp [step, h]

theorem step_host (h : s.nextTurn = (.host, q)) :
    step s = hostTurn { s with schedule := q, turn := .host } := by
  rw [step_of_turn h]; rfl

theorem step_engine (h : s.nextTurn = (.engine, q)) :
    step s = engineTurn { s with schedule := q, turn := .engine } := by
  rw [step_of_turn h]; rfl

theorem step_reset (h : s.nextTurn = (.reset, q)) :
    step s = .next (State.resetEvent { s with schedule := q }) := by
  rw [step_of_turn h]; rfl

theorem step_secondHost (h : s.nextTurn = (.secondHost, q)) : step s = .refused .secondHost := by
  rw [step_of_turn h]; rfl

end Turns

/-- What a transaction of the host can do: the program is over, or a write, a read or a POLL read is performed. -/
theorem hostTurn_cases {s t : State} (h : hostTurn s = .next t) :
    (s.program = [] ∧ t = s) ∨
    (∃ a v rest r, s.program = .write a v :: rest ∧ locate s.cfg a = .ok r ∧
      writeReg r v { s with program := rest } = .next t) ∨
    (∃ a rest r, s.program = .read a :: rest ∧ locate s.cfg a = .ok r ∧
      t = (readReg r { s with program := rest }).2.record (readReg r { s with program := rest }).1) ∨
    (∃ rest, s.program = .poll :: rest ∧
      t = if busyBit s.statusWord then s.record s.statusWord
          else { s.record s.statusWord with program := rest }) := by
  unfold hostTurn at h
  split at h
  · cases h; exact .inl ⟨‹_›, rfl⟩
  · split at h
    · cases h
    · exact .inr (.inl ⟨_, _, _, _, ‹_›, ‹_›, h⟩)
  · split at h
    · cases h
    · cases h; exact .inr (.inr (.inl ⟨_, _, _, ‹_›, ‹_›, rfl⟩))
  · cases h; exact .inr (.inr (.inr ⟨_, ‹_›, rfl⟩))

/-- What an engine step can do: nothing while idle, else the step of the command in flight. -/
theorem engineTurn_cases {s t : State} (h : engineTurn s = .next t) :
    (s.busy = false ∧ t = s) ∨ (s.busy = true ∧ ∃ i, s.curOp = some i ∧ exec i s = .next t) := by
  unfold engineTurn at h
  split at h
  · split at h
    · exact .inr ⟨‹_›, _, ‹_›, h⟩
    · cases h
  · cases h; exact .inl ⟨by simpa using ‹¬s.busy = true›, rfl⟩

/-- What a step of the machine can do, by whose turn it is. -/
theorem step_cases {s t : State} (h : step s = .next t) :
    ∃ q, (s.nextTurn = (.host, q) ∧ hostTurn { s with schedule := q, turn := .host } = .next t) ∨
      (s.nextTurn = (.engine, q) ∧ engineTurn { s with schedule := q, turn := .engine } = .next t) ∨
      (s.nextTurn = (.reset, q) ∧ t = State.resetEvent { s with schedule := q }) := by
  rcases hn : s.nextTurn with ⟨u, q⟩
  refine ⟨q, ?_⟩
  cases u with
  | host => rw [step_host hn] at h; exact .inl ⟨rfl, h⟩
  | engine => rw [step_engine hn] at h; exact .inr (.inl ⟨rfl, h⟩)
  | reset => rw [step_reset hn] at h; cases h; exact .inr (.inr ⟨rfl, rfl⟩)
  | secondHost => rw [step_secondHost hn] at h; cases h

section Runs
variable {n : Nat} {s t : State}

@[simp] theorem core_run_zero : Sys2Proof.core.run 0 s = .next s := rfl

theorem run_next (M : Host.Core) {u v : M.State} (h : M.step u = .next v) : M.run (n + 1) u = M.run n v := by
  rw [Host.Core.run, h]

/-- A run follows its first step. -/
theorem core_run_next (h : step s = .next t) : Sys2Proof.core.run (n + 1) s = Sys2Proof.core.run n t :=
  run_next Sys2Proof.core h

/-- One scheduled engine step of the command in flight. -/
theorem step_engine_scheduled {q : List Turn} {i : Instr} (hb : s.busy = true) (hi : s.curOp = some i) :
    step { s with schedule := .engine :: q } = .next (runOf i { s with schedule := q, turn := .engine }) := by
  rw [step_engine (s := { s with schedule := .engine :: q }) rfl]
  simp only [engineTurn, hb, if_true, hi]
  exact exec_engine _ _ rfl

end Runs

end Sys2Proof.Machine
end

