-- ==== Sys2Proof/Laws/Platform.lean ====
section
/-! SUPPORT. What the end of a run is (70_reset_and_hazards.md R284), said once. -/

namespace Sys2Proof.Machine

section Runs
variable {n m : Nat} {s t : State}

@[simp] theorem runEnd_done (h : s.hostDone) : runEnd n s = some s := by
  cases n <;> simp [runEnd, h]

theorem runEnd_next (hs : ¬s.hostDone) (h : step s = .next t) : runEnd (n + 1) s = runEnd n t := by
  simp [runEnd, hs, h]

/-- Where a run ends: after `k` steps, with the host's program over there and at no point before. -/
theorem runEnd_spec (h : runEnd n s = some t) :
    t.hostDone ∧ ∃ k, k ≤ n ∧ Sys2Proof.core.run k s = .next t ∧
      ∀ j, j < k → ∃ u, Sys2Proof.core.run j s = .next u ∧ ¬u.hostDone := by
  induction n generalizing s with
  | zero =>
    simp only [runEnd] at h
    split at h <;> cases h
    exact ⟨‹_›, 0, le_rfl, rfl, fun j hj => by omega⟩
  | succ n ih =>
    by_cases hs : s.hostDone
    · rw [runEnd_done hs] at h; cases h
      exact ⟨hs, 0, by omega, rfl, fun j hj => by omega⟩
    · rcases hx : step s with u | f | r
      · rw [runEnd_next hs hx] at h
        obtain ⟨ht, k, hk, hr, hb⟩ := ih h
        refine ⟨ht, k + 1, by omega, (core_run_next hx).trans hr, fun j hj => ?_⟩
        cases j with
        | zero => exact ⟨s, rfl, hs⟩
        | succ j =>
          obtain ⟨v, hv, hd⟩ := hb j (by omega)
          exact ⟨v, (core_run_next hx).trans hv, hd⟩
      · simp [runEnd, hs, hx] at h
      · simp [runEnd, hs, hx] at h

/-- A run that has ended stays ended, whatever the schedule holds after its end. -/
theorem runEnd_mono (h : runEnd n s = some t) (hm : n ≤ m) : runEnd m s = some t := by
  induction n generalizing s m with
  | zero =>
    simp only [runEnd] at h
    split at h <;> cases h
    exact runEnd_done ‹_›
  | succ n ih =>
    obtain ⟨m, rfl⟩ := Nat.exists_eq_add_of_le' (show 1 ≤ m by omega)
    by_cases hs : s.hostDone
    · rw [runEnd_done hs] at h ⊢; exact h
    · rcases hx : step s with u | f | r
      · rw [runEnd_next hs hx] at h ⊢
        exact ih h (by omega)
      · simp [runEnd, hs, hx] at h
      · simp [runEnd, hs, hx] at h

end Runs

end Sys2Proof.Machine
end

