-- ==== Sys2Proof/Tests/Slice0.lean ====
section
/-! SUPPORT. Tests of one step each, with the source of every expected value, and for every statement that has hypotheses
a concrete case that meets them (`test_witness_<statement>`). -/

namespace Sys2Proof.Tests
open Sys2Proof.Machine

/- One test after another: elaborated side by side they take a thread stack each, and much memory together. -/
set_option Elab.async false

section Helpers

/-- The state an outcome answers, if any. -/
def nextOf : Host.Outcome State Fault Refusal → Option State
  | .next s => some s
  | _       => none

/-- What a test looks at in an outcome. -/
def look {α : Type} (f : State → α) (o : Host.Outcome State Fault Refusal) : Option α := (nextOf o).map f

/-- The first two words of MT after SEEDI 0 and its first twist (95_test_vectors.md V-CORE-2), with IDX = 0: what the
next two calls of NextWord read is what they read after SEEDI 0. -/
def demoGen : GeneratorState :=
  { mt := writeMT (writeMT (Vector.replicate 624 0#32) 0 0x51CC4A4F#32) 1 0xC00B32FF#32, idx := 0 }

/-- An idle engine with that generator state. -/
def demo : State := { State.reset with gen := demoGen, seeded := true }

/-- That engine with a command in flight, at the engine's turn. -/
def flying (i : Instr) (k d : Nat) (base : Int) : State :=
  { demo with turn := .engine, busy := true, curOp := some i, curK := k, curD := d, curBase := base }

/-- The engine right after reset, with a host about to perform one transaction. -/
def about (op : HostOp) : State := { State.reset with program := [op] }

end Helpers

section WellFormed

theorem test_wf_default : Config.default.wf = true := by decide
theorem test_wf_keymax_zero : Config.wf { keymax := 0, xwords := 2, base := 0 } = false := by decide
theorem test_wf_keymax_large : Config.wf { keymax := 1025, xwords := 2, base := 0 } = false := by decide
theorem test_wf_xwords_one : Config.wf { keymax := 1, xwords := 1, base := 0 } = false := by decide
theorem test_wf_xwords_large : Config.wf { keymax := 1, xwords := 1025, base := 0 } = false := by decide
theorem test_wf_base_unaligned : Config.wf { keymax := 1, xwords := 2, base := 0x4000 } = false := by decide
theorem test_wf_base_aligned : Config.wf { keymax := 1024, xwords := 1024, base := 0x18000 } = true := by decide
theorem test_wf_access : Access.wf Config.default { addr := 0x7FFC, bytes := 4 } = true := by decide
theorem test_wf_access_width : Access.wf Config.default { addr := 0x0000, bytes := 2 } = false := by decide
theorem test_wf_access_unaligned : Access.wf Config.default { addr := 0x0002, bytes := 4 } = false := by decide
theorem test_wf_access_outside : Access.wf Config.default { addr := 0x8000, bytes := 4 } = false := by decide
theorem test_wf_hostOp : HostOp.wf Config.default (.write { addr := 1, bytes := 4 } 0#32) = false := by decide
theorem test_wf_commands : Instr.wf .seed && Instr.wf .random && Instr.wf .getrandbits && Instr.wf .randbelow
    && Instr.wf .randint = true := by decide

end WellFormed

section Decoding

/-! The words of the opcode map, written out bit by bit from 30_encoding.md R90 and R91: RSV in bits 31:4, OP in 3:0. -/

theorem test_decode_seed : decode 0b00000000000000000000000000000001#32 = .ok .seed := by decide
theorem test_decode_random : decode 0b00000000000000000000000000000010#32 = .ok .random := by decide
theorem test_decode_getrandbits : decode 0b00000000000000000000000000000011#32 = .ok .getrandbits := by decide
theorem test_decode_randbelow : decode 0b00000000000000000000000000000100#32 = .ok .randbelow := by decide
theorem test_decode_randint : decode 0b00000000000000000000000000000101#32 = .ok .randint := by decide
theorem test_decode_op_zero : decode 0b00000000000000000000000000000000#32 = .error .reservedOpcode := by decide
theorem test_decode_op_six : decode 0b00000000000000000000000000000110#32 = .error .reservedOpcode := by decide
theorem test_decode_op_fifteen : decode 0b00000000000000000000000000001111#32 = .error .reservedOpcode := by decide
theorem test_decode_rsv_low : decode 0b00000000000000000000000000010001#32 = .error .reservedField := by decide
theorem test_decode_rsv_top : decode 0b10000000000000000000000000000001#32 = .error .reservedField := by decide
theorem test_encode : encode .seed = 1#32 ∧ encode .random = 2#32 ∧ encode .getrandbits = 3#32 ∧
    encode .randbelow = 4#32 ∧ encode .randint = 5#32 := by decide
theorem test_fetch_after_reset : (State.reset.withFetchWord 32 1).program = [cmdOp Config.default .seed] := by decide

end Decoding

section Generator

/-- V-CORE-4. -/
theorem test_temper : temper 0#32 = 0#32 ∧ temper 1#32 = 0x00400091#32 ∧ temper 0x80000000#32 = 0x88102204#32 ∧
    temper 0xFFFFFFFF#32 = 0x6FE01BF8#32 ∧ temper 0x12345678#32 = 0x2B7E4A2D#32 ∧
    temper 0x9908B0DF#32 = 0xFE97EAEC#32 := by decide

/-- V-CORE-5, the state MT[i] = i: the new words of slots 0, 1, 226 and 227 from the words the pass reads there. -/
theorem test_twistWord : twistWord 0#32 1#32 397#32 = 0x9908B152#32 ∧ twistWord 1#32 2#32 398#32 = 0x0000018F#32 ∧
    twistWord 226#32 227#32 623#32 = 0x9908B2C1#32 ∧ twistWord 227#32 228#32 0x9908B152#32 = 0x9908B120#32 := by decide

/-- V-SEED-2. -/
theorem test_bootstrap : readMT (bootstrap (Vector.replicate 624 0#32)) 0 = 0x012BD6AA#32 ∧
    readMT (bootstrap (Vector.replicate 624 0#32)) 1 = 0x82D2AB13#32 ∧
    readMT (bootstrap (Vector.replicate 624 0#32)) 2 = 0x342096B7#32 := by decide +kernel

/-- R123, by hand: MT[0] = 1, key [5], i = 1: t = 1664525, so MT[1] = 1664525 + 5 + 0; j wraps, i goes on. -/
theorem test_mixKeyStep :
    let m := mixKeyStep [5#32] { mt := writeMT (Vector.replicate 624 0#32) 0 1#32, i := 1, j := 0 }
    readMT m.mt 1 = 1664530#32 ∧ m.i = 2 ∧ m.j = 0 := by decide +kernel

/-- R124, by hand: MT[622] = 1, i = 623: t = 1566083941, so MT[623] = 1566083941 - 623, copied to MT[0]; i wraps to 1. -/
theorem test_mixPlainStep :
    let m := mixPlainStep { mt := writeMT (Vector.replicate 624 0#32) 622 1#32, i := 623, j := 0 }
    readMT m.mt 623 = 1566083318#32 ∧ readMT m.mt 0 = 1566083318#32 ∧ m.i = 1 := by decide +kernel

/-- V-CORE-1: the first two words, and IDX after them. -/
theorem test_nextWord : (drawWords 2 demoGen).1 = [0xD82C07CD#32, 0x629F6FBE#32] ∧ (drawWords 2 demoGen).2.idx = 2 := by
  decide +kernel

/-- V-SEED-1. -/
theorem test_seedWords : seedWords 0 = [0#32] ∧ seedWords (-123) = [0x7B#32] ∧
    seedWords 117624834567 = [0x62FC8A07#32, 0x1B#32] ∧ seedWords (2 ^ 64 - 1) = [0xFFFFFFFF#32, 0xFFFFFFFF#32] ∧
    seedWords (2 ^ 200 + 12345) = [0x3039#32, 0#32, 0#32, 0#32, 0#32, 0#32, 0x100#32] := by decide +kernel

/-- V-FLT-1. -/
theorem test_f64 : f64 0 = 0 ∧ f64 1 = 0x3CA0000000000000 ∧ f64 2 = 0x3CB0000000000000 ∧
    f64 (2 ^ 52) = 0x3FE0000000000000 ∧ f64 (3 * 2 ^ 51) = 0x3FE8000000000000 ∧
    f64 (2 ^ 53 - 1) = 0x3FEFFFFFFFFFFFFF := by decide +kernel

end Generator

section Commands

/-- V-SEED-3: what SEED leaves that no pass decides: MT[0], IDX, SEEDED, BUSY and OUT. -/
theorem test_seed_runs : look (fun t => (t.gen.idx, t.seeded, t.busy, t.curOp, t.out))
    (exec .seed { flying .seed 0 0 0 with keyLen := 1#32, out := [7#32, 9#32] }) =
      some (624, true, false, none, [7#32, 9#32]) := by decide +kernel

/-- V-ERR: SEED with KEY_LEN = KEYMAX + 1 after reset. -/
theorem test_seed_range : look State.statusWord (exec .seed { State.reset with keyLen := 9#32 }) = some 0x30#32 := by
  decide +kernel

/-- V-FLT-2, call 1. -/
theorem test_random_runs : look (fun t => (t.out, t.gen.idx, t.statusWord)) (exec .random (flying .random 0 0 0)) =
    some ([0xF98A7DBE#32, 0x3FEB0580#32], 2, 2#32) := by decide +kernel

/-- V-BITS-1: k = 33 needs two words; k = 8 keeps the top bits of one (C5). -/
theorem test_getrandbits_runs :
    look (fun t => (t.out, t.gen.idx)) (exec .getrandbits (flying .getrandbits 33 0 0)) =
      some ([0xD82C07CD#32, 0#32], 2) ∧
    look (fun t => (t.out, t.gen.idx)) (exec .getrandbits (flying .getrandbits 8 0 0)) =
      some ([0xD8#32, 0#32], 1) := by decide +kernel

/-- V-ERR: k = -2^31, k = 65 and k = 64 on a seeded, idle engine. -/
theorem test_getrandbits_checks :
    look State.statusWord (exec .getrandbits { demo with argK := 0x80000000#32 }) = some 0x12#32 ∧
    look State.statusWord (exec .getrandbits { demo with argK := 65#32 }) = some 0x32#32 ∧
    look State.statusWord (exec .getrandbits { demo with argK := 64#32 }) = some 0x03#32 := by decide +kernel

/-- V-BND-1: n = 3: the candidate 3 is rejected, and only IDX moves; the next one, 1, is accepted. -/
theorem test_randbelow_runs :
    look (fun t => (t.busy, t.gen.idx, t.out)) (exec .randbelow (flying .randbelow 2 2 0)) =
      some (true, 1, [0#32, 0#32]) ∧
    look (fun t => (t.busy, t.gen.idx, t.out))
        (exec .randbelow { flying .randbelow 2 2 0 with gen := { demoGen with idx := 1 } }) =
      some (false, 2, [1#32, 0#32]) := by decide +kernel

/-- V-ERR and V-BND-1: n = 0, n = -2^63 and n = 2^63 - 1. -/
theorem test_randbelow_checks :
    look State.statusWord (exec .randbelow demo) = some 0x12#32 ∧
    look State.statusWord (exec .randbelow { demo with opa := [0#32, 0x80000000#32] }) = some 0x12#32 ∧
    look (fun t => (t.statusWord, t.curK)) (exec .randbelow { demo with opa := [0xFFFFFFFF#32, 0x7FFFFFFF#32] }) =
      some (0x03#32, 63) := by decide +kernel

/-- V-BND-2: a = -10, b = -7 and the full range. -/
theorem test_randint_runs :
    look (fun t => (t.out, t.gen.idx)) (exec .randint (flying .randint 2 3 (-10))) =
      some ([0xFFFFFFF9#32, 0xFFFFFFFF#32], 1) ∧
    look (fun t => (t.out, t.gen.idx)) (exec .randint (flying .randint 64 (2 ^ 64 - 1) (-2 ^ 63))) =
      some ([0xD82C07CD#32, 0xE29F6FBE#32], 2) := by decide +kernel

/-- V-BND-3 (refused), and P4: a = -3, b = 3. -/
theorem test_randint_checks :
    look State.statusWord (exec .randint { demo with opb := [0xFFFFFFFF#32, 0xFFFFFFFF#32] }) = some 0x12#32 ∧
    look (fun t => (t.statusWord, t.curK, t.curD, t.curBase))
        (exec .randint { demo with opa := [0xFFFFFFFD#32, 0xFFFFFFFF#32], opb := [3#32, 0#32] }) =
      some (0x03#32, 3, 6, -3) := by decide +kernel

end Commands

section Window

/-- V-ERR, the rows that start from reset. -/
theorem test_errors_after_reset :
    look State.statusWord (writeReg (some .cmd) 3#32 { State.reset with argK := 8#32 }) = some 0x20#32 ∧
    look State.statusWord (writeReg (some .cmd) 3#32 { State.reset with argK := 0xFFFFFFFF#32 }) = some 0x20#32 ∧
    look State.statusWord (writeReg (some .cmd) 0x10#32 State.reset) = some 0x40#32 ∧
    look State.statusWord (writeReg (some .cmd) 0#32 State.reset) = some 0x40#32 ∧
    look State.statusWord (writeReg (some .cmd) 6#32 State.reset) = some 0x40#32 ∧
    look State.statusWord (writeReg (some .cmd) 1#32 State.reset) = some 0x30#32 := by decide +kernel

/-- V-ERR, the last row: any word written to CMD while BUSY = 1. -/
theorem test_write_while_busy :
    look (fun t => (t.ovr, t.err)) (writeReg (some .cmd) 0x12#32 (flying .randbelow 2 2 0)) = some (true, .ok) ∧
    look (fun t => (t.ovr, t.opa)) (writeReg (some (.opa 0)) 7#32 (flying .randbelow 2 2 0)) =
      some (true, [0#32, 0#32]) := by decide +kernel

/-- R60, at the ends of the arrays of the configuration KEYMAX = 8, XWORDS = 2. -/
theorem test_map : decodeOffset Config.default 0x101C = some (.key 7) ∧ decodeOffset Config.default 0x1020 = none ∧
    decodeOffset Config.default 0x2004 = some (.opa 1) ∧ decodeOffset Config.default 0x3008 = none ∧
    decodeOffset Config.default 0x4004 = some (.out 1) ∧ decodeOffset Config.default 0x0014 = none ∧
    decodeOffset Config.default 0x7FFC = none := by decide

/-- R41: KEYMAX = 8 and XWORDS = 2. -/
theorem test_info : Config.infoWord Config.default = 0x00020008#32 := by decide

/-- R101: a POLL that reads BUSY = 1 stays the host's next transaction. -/
theorem test_poll_while_busy : look (fun t => (t.results, t.program))
    (step { flying .randbelow 2 2 0 with schedule := [.host], program := [.poll] }) =
      some ([3#32], [.poll]) := by decide +kernel

/-- R284: a run ends with the last transaction; a choice of the schedule after its end is not taken. -/
theorem test_run_end : let s : State := { about (rd Config.default .info) with schedule := [.host, .secondHost] }
    (runEnd 5 s).map (fun t => (t.results, t.schedule)) = some ([0x00020008#32], [.secondHost]) ∧
    runResult 0 s = none ∧ runResult 5 s = some [0x00020008#32] := by decide +kernel

end Window

section Witnesses

/-- The engine with RANDBELOW in flight and a host whose turn is fixed. -/
def busyAbout (op : HostOp) : State := { flying .randbelow 2 2 0 with program := [op], schedule := [.host] }

/-- The CMD register's access. -/
def cmdAccess : Access := { addr := 0, bytes := 4 }

theorem test_witness_DecodeOfEncodeIsTheCommand : Instr.wf .randint = true := by decide

theorem test_witness_StepRunsThePresentedCommand :
    (about (.write cmdAccess 1#32)).nextTurn = (.host, []) ∧
    (about (.write cmdAccess 1#32)).program = .write cmdAccess 1#32 :: [] ∧
    locate (about (.write cmdAccess 1#32)).cfg cmdAccess = .ok (some .cmd) ∧
    decode 1#32 = .ok .seed ∧ Instr.wf .seed = true ∧
    locate Config.default (accessOf Config.default (.out 1)) = .ok (some (.out 1)) ∧
    (about (rd Config.default (.out 1))).nextTurn = (.host, []) ∧
    (about (rd Config.default (.out 1))).program = .read (accessOf Config.default (.out 1)) :: [] :=
  ⟨rfl, rfl, rfl, rfl, rfl, rfl, rfl, rfl⟩

theorem test_witness_StepRunsTheCommandInFlight :
    (flying .randint 2 3 0).nextTurn = (.engine, []) ∧ (flying .randint 2 3 0).busy = true ∧
    (flying .randint 2 3 0).curOp = some .randint := ⟨rfl, rfl, rfl⟩

theorem test_witness_FetchedWordRunsAtTheNextStep :
    State.reset.cfg.wf = true ∧ decodeTableWord 32 5 = some .randint ∧ decodeTableWord 8 1 = some .seed := by decide

theorem test_witness_IllegalWordIsRefusedOrDropped :
    (about (.write cmdAccess 0x10#32)).nextTurn = (.host, []) ∧ (about (.write cmdAccess 0x10#32)).busy = false ∧
    (busyAbout (.write cmdAccess 0x10#32)).nextTurn = (.host, []) ∧
    (busyAbout (.write cmdAccess 0x10#32)).busy = true ∧
    (about (.write cmdAccess 0x10#32)).program = .write cmdAccess 0x10#32 :: [] ∧
    (busyAbout (.write cmdAccess 0x10#32)).program = .write cmdAccess 0x10#32 :: [] ∧
    locate (about (.write cmdAccess 0x10#32)).cfg cmdAccess = .ok (some .cmd) ∧
    locate (busyAbout (.write cmdAccess 0x10#32)).cfg cmdAccess = .ok (some .cmd) ∧
    (0x10#32 >>> 4 ≠ 0#32) ∧ (0x0#32 &&& 0xF#32 = 0#32) ∧ (0x6#32 ≤ 0x6#32 &&& 0xF#32) ∧
    (0x6#32 ≤ 0xF#32 &&& 0xF#32) := by
  refine ⟨rfl, rfl, rfl, rfl, rfl, rfl, rfl, rfl, ?_⟩
  decide

theorem test_witness_ProductionBeforeSeedingIsRefused :
    State.reset.turn = .host ∧ State.reset.busy = false ∧ State.reset.seeded = false ∧ Instr.randint ≠ .seed := by decide

theorem test_witness_RandbelowFollowsItsRule :
    demo.turn = .host ∧ demo.busy = false ∧ demo.seeded = true ∧ demo.cfg.wf = true ∧
    demo.opa.length = demo.cfg.xwords ∧ wideOf demo.opa = 0 ∧
    (wideOf [0#32, 0x80000000#32]).testBit (demo.cfg.xw - 1) = true ∧
    wideOf [1#32, 0#32] ≠ 0 ∧ (wideOf [1#32, 0#32]).testBit (demo.cfg.xw - 1) = false ∧
    wideOf [0xFFFFFFFF#32, 0x7FFFFFFF#32] ≠ 0 ∧
    (wideOf [0xFFFFFFFF#32, 0x7FFFFFFF#32]).testBit (demo.cfg.xw - 1) = false ∧ State.reset.seeded = false ∧
    (drawAtMost 2 2 demo.gen).isSome = true ∧ (drawAtMost 0 0 demo.gen).isSome = true := by
  decide +kernel

theorem test_witness_RandintFollowsItsRule :
    demo.turn = .host ∧ demo.busy = false ∧ demo.seeded = true ∧ demo.opaVal ≤ demo.opbVal ∧
    State.opbVal { demo with opa := [5#32, 0#32], opb := [4#32, 0#32] } <
      State.opaVal { demo with opa := [5#32, 0#32], opb := [4#32, 0#32] } ∧ State.reset.seeded = false ∧
    (drawAtMost 2 10 demo.gen).isSome = true := by decide +kernel

theorem test_witness_RefusedWriteChangesOnlyTheCode :
    demo.turn = .host ∧ demo.busy = false ∧
    ∃ t, writeReg (some .cmd) 4#32 demo = .next t ∧ t.busy = false := ⟨rfl, rfl, _, rfl, rfl⟩

theorem test_witness_ReportedCodeIsTheFirstThatApplies : State.reset.turn = .host ∧ State.reset.busy = false := by decide

theorem test_witness_BootstrapFollowsItsRecurrence : ∃ i, 1 ≤ i ∧ i ≤ 623 := ⟨623, by decide⟩

theorem test_witness_KeyedMixingFollowsItsFormula :
    let m : MixState := { mt := demoGen.mt, i := 623, j := 1 }
    1 ≤ [3#32, 4#32].length ∧ 1 ≤ m.i ∧ m.i ≤ 623 ∧ m.j < [3#32, 4#32].length ∧ m.i = 623 ∧
    ({ m with i := 1, j := 0 } : MixState).i < 623 := by decide +kernel

theorem test_witness_PlainMixingFollowsItsFormula :
    let m : MixState := { mt := demoGen.mt, i := 623, j := 0 }
    1 ≤ m.i ∧ m.i ≤ 623 ∧ m.i = 623 ∧ ({ m with i := 1 } : MixState).i < 623 := by decide +kernel

theorem test_witness_MixingPassesEndAtTheirIndices : 1 ≤ [0#32].length ∧ 1 ≤ (List.replicate 700 0#32).length := by
  decide +kernel

theorem test_witness_SeedFollowsItsRule :
    State.reset.turn = .host ∧ State.reset.busy = false ∧ State.reset.keyLen.toNat = 0 ∧
    (1 ≤ (1#32).toNat ∧ (8#32).toNat ≤ State.reset.cfg.keymax ∧ State.reset.cfg.keymax < (9#32).toNat) ∧
    (flying .seed 0 0 0).turn = .engine := by decide +kernel

theorem test_witness_SeedReadsOnlyItsKeyWords :
    ∃ t t' : State,
      let s : State := { flying .seed 0 0 0 with keyLen := 1#32 }
      let s' : State := { s with key := [0#32, 5#32], ovr := true }
      s.turn = .engine ∧ s'.turn = .engine ∧ s.keyLen = s'.keyLen ∧
      (∀ j, j < s.keyLen.toNat → wordAt s.key j = wordAt s'.key j) ∧
      exec .seed s = .next t ∧ exec .seed s' = .next t' :=
  ⟨_, _, rfl, rfl, rfl, by decide +kernel, rfl, rfl⟩

theorem test_witness_NextWordTakesOneOfTwoTransitions :
    demoGen.idx < 624 ∧ ({ demoGen with idx := 623 } : GeneratorState).idx < 624 ∧
    ({ demoGen with idx := 624 } : GeneratorState).idx = 624 := by decide

theorem test_witness_TwistFollowsTheDependencyOrder : (226 ≤ 226) ∧ (227 ≤ 227 ∧ 227 ≤ 622) ∧ (227 ≤ 622 ∧ 622 ≤ 622) := by
  decide

theorem test_witness_DrawnWordsTwistEvery624 : ({ demoGen with idx := 624 } : GeneratorState).idx = 624 := by decide

theorem test_witness_GetBitsDrawsCeilWords :
    (32 * 0 < 0 + 32 ∧ 0 ≤ 32 * 0) ∧ (32 * 1 < 32 + 32 ∧ 32 ≤ 32 * 1) ∧ (32 * 2 < 33 + 32 ∧ 33 ≤ 32 * 2) := by decide

theorem test_witness_GetBitsJoinsWordsLowToHigh : (0 < 32 ∧ 0 = 0) ∧ (31 < 32 ∧ 31 ≠ 0) := by decide

theorem test_witness_RandomFollowsItsRule :
    demo.turn = .host ∧ demo.busy = false ∧ demo.seeded = true ∧ State.reset.seeded = false ∧
    (flying .random 0 0 0).turn = .engine ∧ (flying .random 0 0 0).cfg.wf = true := by decide +kernel

theorem test_witness_DoublePatternIsExact : 0 < 1 ∧ 1 < 2 ^ 53 ∧ 0 < 2 ^ 53 - 1 ∧ 2 ^ 53 - 1 < 2 ^ 53 := by decide

theorem test_witness_RandomStaysBelowOne :
    (flying .random 0 0 0).turn = .engine ∧ (flying .random 0 0 0).cfg.wf = true := by decide +kernel

theorem test_witness_GetrandbitsFollowsItsRule :
    demo.turn = .host ∧ demo.busy = false ∧ demo.seeded = true ∧ State.reset.seeded = false ∧
    (0xFFFFFFFF#32).toInt < 0 ∧ (32 * demo.cfg.xwords : Int) < (65#32).toInt ∧
    0 ≤ (0#32).toInt ∧ (64#32).toInt ≤ (32 * demo.cfg.xwords : Int) ∧
    (flying .getrandbits 64 0 0).turn = .engine ∧
    (flying .getrandbits 0 0 0).curK = 0 ∧ (flying .getrandbits 31 0 0).curK = 31 ∧
    (flying .getrandbits 33 0 0).curK ≤ 32 * demo.cfg.xwords ∧
    (flying .getrandbits 64 0 0).curK = 32 * (flying .getrandbits 64 0 0).cfg.xwords := by decide +kernel

theorem test_witness_BoundedStepAcceptsOrRejects :
    (flying .randint 0 0 5).turn = .engine ∧ (flying .randint 0 0 5).curK = 0 ∧
    (flying .randbelow 2 3 0).curK ≠ 0 ∧ (getBits 2 (flying .randbelow 2 3 0).gen).1 ≤ (flying .randbelow 2 3 0).curD ∧
    (flying .randbelow 2 2 0).curK ≠ 0 ∧
    (flying .randbelow 2 2 0).curD < (getBits 2 (flying .randbelow 2 2 0).gen).1 := by decide +kernel

theorem test_witness_RandbelowLatchesTheLeastWidth :
    demo.turn = .host ∧ demo.busy = false ∧ demo.seeded = true ∧
    0 < State.opaVal { demo with opa := [1#32, 0#32] } ∧
    State.opaVal { demo with opa := [0#32, 1#32] } = 2 ^ 32 := by decide +kernel

theorem test_witness_PowerOfTwoBoundAcceptsTheFirstCandidate :
    (flying .randbelow 2 3 0).turn = .engine ∧ (flying .randbelow 2 3 0).curK = 2 ∧
    (flying .randbelow 2 3 0).curD = 2 ^ 2 - 1 ∧ (flying .randint 0 0 5).curK = 0 ∧
    (flying .randint 0 0 5).curD = 2 ^ 0 - 1 := by decide +kernel

theorem test_witness_BoundedResultsLieInTheirRanges :
    ∃ t u : State, (flying .randbelow 2 3 0).Inv ∧ (flying .randbelow 2 3 0).turn = .engine ∧ t.busy = false ∧
      (flying .randbelow 2 3 0).curOp = some .randbelow ∧ exec .randbelow (flying .randbelow 2 3 0) = .next t ∧
      (flying .randint 2 3 (-10)).Inv ∧ (flying .randint 2 3 (-10)).turn = .engine ∧ u.busy = false ∧
      (flying .randint 2 3 (-10)).curOp = some .randint ∧ exec .randint (flying .randint 2 3 (-10)) = .next u := by
  refine ⟨_, _, by decide +kernel, rfl, ?_, rfl, rfl, by decide +kernel, rfl, ?_, rfl, rfl⟩ <;> decide +kernel

theorem test_witness_BoundedStepsComputeDrawAtMost :
    (flying .randbelow 2 2 0).busy = true ∧
    (flying .randbelow 2 2 0).curOp = some .randbelow ∧
    (flying .randbelow 2 2 0).curK = bitlen (flying .randbelow 2 2 0).curD ∧
    (drawAtMost 2 2 (flying .randbelow 2 2 0).gen).isSome = true ∧ (drawAtMost 0 0 demoGen).isSome = true := by
  decide +kernel

theorem test_witness_BoundedCommandNeverGivesUp :
    (flying .randint 2 2 0).turn = .engine ∧ (flying .randint 2 2 0).busy = true ∧
    (flying .randint 2 2 0).curOp = some .randint ∧
    (flying .randint 2 2 0).curK = bitlen (flying .randint 2 2 0).curD ∧ drawAtMost 1 2 demoGen = none := by decide +kernel

theorem test_witness_AcceptedCommandsCompleteInOneEngineStep :
    ∃ t u v : State,
      let s : State := { demo with keyLen := 1#32, argK := 64#32, schedule := [.host, .engine] }
      s.cfg.wf = true ∧ s.busy = false ∧
      State.program { s with program := [cmdOp s.cfg .seed] } = cmdOp s.cfg .seed :: [] ∧
      exec .seed { s with schedule := [.engine], turn := .host, program := [] } = .next t ∧ t.err = .ok ∧
      exec .random { s with schedule := [.engine], turn := .host, program := [] } = .next u ∧ u.err = .ok ∧
      exec .getrandbits { s with schedule := [.engine], turn := .host, program := [] } = .next v ∧ v.err = .ok :=
  ⟨_, _, _, rfl, rfl, rfl, rfl, rfl, rfl, rfl, rfl, rfl⟩

theorem test_witness_RegisterMapIsExact :
    Config.wf { keymax := 1024, xwords := 1024, base := 0 } = true ∧ 0x4FFC < 0x8000 ∧
    decodeOffset { keymax := 1024, xwords := 1024, base := 0 } 0x4FFC = some (.out 1023) ∧
    decodeOffset { keymax := 1024, xwords := 1024, base := 0 } 0x1FFC = some (.key 1023) := by decide

theorem test_witness_NamedAccessReachesItsRegister :
    Config.wf { keymax := 1, xwords := 2, base := 0x8000 } = true ∧
    Reg.existsIn { keymax := 1, xwords := 2, base := 0x8000 } (.out 1) = true := by decide

theorem test_witness_UnmappedOffsetsReadZeroAndIgnoreWrites :
    (about (.read { addr := 0x7FFC, bytes := 4 })).nextTurn = (.host, []) ∧
    locate Config.default { addr := 0x7FFC, bytes := 4 } = .ok none ∧
    (about (.read { addr := 0x7FFC, bytes := 4 })).program = [.read { addr := 0x7FFC, bytes := 4 }] ∧
    (about (.write { addr := 0x7FFC, bytes := 4 } 1#32)).program = [.write { addr := 0x7FFC, bytes := 4 } 1#32] ∧
    (Config.default.keymax ≤ 8 ∧ Config.default.xwords ≤ 2) ∧ 1023 < 1024 :=
  ⟨rfl, rfl, rfl, rfl, by decide, by decide⟩

theorem test_witness_WritesAreDroppedWhileBusy :
    let s : State := { flying .randbelow 2 2 0 with turn := .host }
    s.turn = .host ∧ s.busy = true ∧ Reg.existsIn s.cfg .cmd = true ∧ Reg.existsIn s.cfg (.key 7) = true ∧
    Reg.isOperand (.key 7) = true := by decide +kernel

theorem test_witness_OverrunIsSetByDroppedWritesAndClearedByStatusOrReset :
    ∃ t u : State, step (busyAbout (.write (accessOf demo.cfg .keyLen) 4#32)) = .next u ∧
      (busyAbout (.write (accessOf demo.cfg .keyLen) 4#32)).ovr = false ∧ u.ovr = true ∧
      let s : State := { demo with ovr := true, program := [.write (accessOf demo.cfg .status) 4#32] }
      step s = .next t ∧ s.ovr = true ∧ t.ovr = false ∧ (4#32).getLsbD 2 = true ∧
      State.nextTurn { s with schedule := [.reset] } = (.reset, []) := by
  refine ⟨_, _, rfl, rfl, ?_, rfl, rfl, ?_, rfl, rfl⟩ <;> decide +kernel

theorem test_witness_IdleWriteIsReadBack :
    demo.sizesOk ∧ demo.busy = false ∧ Reg.isOperand (.opb 1) = true ∧ Reg.existsIn demo.cfg (.opb 1) = true := by
  decide +kernel

theorem test_witness_ReadsHaveNoSideEffect :
    (flying .random 0 0 0).busy = true ∧ demo.busy = false ∧ (∀ w, some Reg.status ≠ some (.out w)) :=
  ⟨rfl, rfl, fun _ h => by cases h⟩

theorem test_witness_StatusRegisterHasItsFields : 8 ≤ 8 ∧ 8 ≤ 31 := by decide

theorem test_witness_InfoRegisterHoldsTheConfiguration :
    Config.wf { keymax := 1024, xwords := 1024, base := 0 } = true ∧ ∃ t, step State.reset = .next t := ⟨rfl, _, rfl⟩

theorem test_witness_IdleReadsReturnTheRegisters :
    demo.busy = false ∧ demo.key[7]? = some 0#32 ∧ demo.opa[1]? = some 0#32 ∧ demo.opb[1]? = some 0#32 ∧
    demo.out[1]? = some 0#32 := by
  decide +kernel

theorem test_witness_AccessesOutsideTheInterfaceAreRefused :
    State.nextTurn { demo with schedule := [.secondHost] } = (.secondHost, []) ∧
    (about (.read { addr := 0, bytes := 2 })).nextTurn = (.host, []) ∧
    (about (.read { addr := 0, bytes := 2 })).program = [.read { addr := 0, bytes := 2 }] ∧
    (about (.write { addr := 2, bytes := 4 } 0#32)).program = [.write { addr := 2, bytes := 4 } 0#32] ∧
    (2 ≠ 4) ∧ (2 % 4 ≠ 0) := ⟨rfl, rfl, rfl, rfl, by decide, by decide⟩

theorem test_witness_PollRepeatsWhileBusy :
    (about .poll).nextTurn = (.host, []) ∧ (about .poll).program = [.poll] ∧ (about .poll).busy = false ∧
    (busyAbout .poll).nextTurn = (.host, []) ∧ (busyAbout .poll).program = [.poll] ∧ (busyAbout .poll).busy = true :=
  ⟨rfl, rfl, rfl, rfl, rfl, rfl⟩

theorem test_witness_SeedWordsSpellTheSeed : (0 : Int) = 0 ∧ (-2 ^ 32 : Int) ≠ 0 := by decide

theorem test_witness_ResetGivesTheResetValues :
    ∃ t : State, State.nextTurn { flying .random 0 0 0 with schedule := [.reset] } = (.reset, []) ∧
      step { flying .random 0 0 0 with schedule := [.reset] } = .next t := ⟨_, rfl, rfl⟩

theorem test_witness_IdleMachineStandsStill :
    State.nextTurn { demo with schedule := [.engine] } = (.engine, []) ∧ demo.busy = false ∧
    demo.nextTurn = (.host, []) ∧ demo.program = [] := ⟨rfl, rfl, rfl, rfl⟩

theorem test_witness_ResetStateSatisfiesTheInvariant : Config.wf { keymax := 1024, xwords := 1024, base := 0 } = true := by
  decide

theorem test_witness_EveryStepKeepsTheInvariant :
    ∃ t : State, (flying .randint 64 (2 ^ 64 - 1) (-2 ^ 63)).Inv ∧ step (flying .randint 64 (2 ^ 64 - 1) (-2 ^ 63)) = .next t :=
  ⟨_, by decide +kernel, rfl⟩

theorem test_witness_HostTurnsKeepTheGeneratorAndOut :
    ∃ t : State, step (about (cmdOp Config.default .seed)) = .next t ∧
      (about (cmdOp Config.default .seed)).nextTurn = (.host, []) := ⟨_, rfl, rfl⟩

theorem test_witness_EngineStepsKeepTheHostRegisters :
    ∃ t : State, step (flying .random 0 0 0) = .next t ∧ (flying .random 0 0 0).nextTurn = (.engine, []) := ⟨_, rfl, rfl⟩

theorem test_witness_CommandsEndOnlyByCompletionOrReset :
    ∃ t u : State, (flying .random 0 0 0).Inv ∧ (flying .random 0 0 0).nextTurn = (.engine, []) ∧
      step (flying .random 0 0 0) = .next t ∧ (flying .random 0 0 0).busy = true ∧ t.busy = false ∧
      step { demo with schedule := [.reset] } = .next u ∧ demo.seeded = true ∧ u.seeded = false :=
  ⟨_, _, by decide +kernel, rfl, rfl, rfl, rfl, rfl, rfl, rfl⟩

theorem test_witness_EnginesShareNoState :
    ∃ us : List State, stepAt 1 [demo, flying .random 0 0 0] = .next us ∧ (0 ≠ 1) := ⟨_, rfl, by decide⟩

end Witnesses

end Sys2Proof.Tests
end

namespace Sys2Proof.Machine

/-! ### What the shared operations leave unchanged -/

section Frames
variable {s t : State} {i : Instr}

/-- An acceptance check writes at most the in-flight record CUR_K, CUR_D, CUR_BASE (R240). -/
theorem checkOf_frame (h : checkOf i s = .ok t) :
    t = { s with curK := t.curK, curD := t.curD, curBase := t.curBase } := by
  cases i with
  | seed =>
    obtain ⟨-, hc⟩ | ⟨-, -, hc⟩ := seedCheck_cases (s := s) <;> rw [checkOf_seed, hc] at h <;> cases h
    rfl
  | random => rw [checkOf_random, randomCheck] at h; cases h; rfl
  | getrandbits =>
    obtain ⟨-, hc⟩ | ⟨-, hc⟩ | ⟨-, -, hc⟩ := getrandbitsCheck_cases (s := s) <;>
      rw [checkOf_getrandbits, hc] at h <;> cases h
    rfl
  | randbelow =>
    obtain ⟨-, hc⟩ | ⟨-, hc⟩ := randbelowCheck_cases (s := s) <;> rw [checkOf_randbelow, hc] at h <;> cases h
    rfl
  | randint =>
    obtain ⟨-, hc⟩ | ⟨-, hc⟩ := randintCheck_cases (s := s) <;> rw [checkOf_randint, hc] at h <;> cases h
    rfl

theorem boundedStep_frame :
    boundedStep s = { s with
      gen := (boundedStep s).gen, out := (boundedStep s).out,
      busy := (boundedStep s).busy, curOp := (boundedStep s).curOp } := by
  obtain ⟨-, h⟩ | ⟨-, -, h⟩ | ⟨-, -, h⟩ := boundedStep_cases (s := s) <;> rw [h] <;> rfl

/-- The engine step of a command writes the generator state, SEEDED, OUT, BUSY and CUR_OP at most (R246). -/
theorem runOf_frame :
    runOf i s = { s with
      gen := (runOf i s).gen, seeded := (runOf i s).seeded, out := (runOf i s).out,
      busy := (runOf i s).busy, curOp := (runOf i s).curOp } := by
  cases i with
  | seed => rfl
  | random => rfl
  | getrandbits => rfl
  | randbelow => rw [runOf_randbelow, boundedStep_frame]
  | randint => rw [runOf_randint, boundedStep_frame]

theorem onCmdWrite_cfg : (s.onCmdWrite i (checkOf i)).cfg = s.cfg := by
  obtain ⟨-, h⟩ | ⟨-, -, -, h⟩ | ⟨-, -, e, -, h⟩ | ⟨-, -, t, hc, h⟩ :=
    onCmdWrite_cases (s := s) (i := i) (check := checkOf i)
  · rw [h, State.dropWrite_cfg]
  · rw [h, State.raise_cfg]
  · rw [h, State.raise_cfg]
  · rw [h, State.accept_cfg, checkOf_frame hc]

/-- An idle engine neither sets nor clears OVR at a command write, accepted or refused (R240, R244). -/
theorem onCmdWrite_ovr_of_idle (hb : s.busy = false) : (s.onCmdWrite i (checkOf i)).ovr = s.ovr := by
  obtain ⟨hb', -⟩ | ⟨-, -, -, h⟩ | ⟨-, -, e, -, h⟩ | ⟨-, -, t, hc, h⟩ :=
    onCmdWrite_cases (s := s) (i := i) (check := checkOf i)
  · rw [hb] at hb'; cases hb'
  · rw [h, State.raise_ovr]
  · rw [h, State.raise_ovr]
  · rw [h, State.accept_ovr, checkOf_frame hc]

theorem onIllegalWrite_busy (hb : s.busy = true) : s.onIllegalWrite = s.dropWrite := by
  simp [State.onIllegalWrite, hb]

theorem onIllegalWrite_idle (hb : s.busy = false) : s.onIllegalWrite = s.raise .illegalCommand := by
  simp [State.onIllegalWrite, hb]

theorem onIllegalWrite_cfg : s.onIllegalWrite.cfg = s.cfg := by
  cases hb : s.busy with
  | true => rw [onIllegalWrite_busy hb, State.dropWrite_cfg]
  | false => rw [onIllegalWrite_idle hb, State.raise_cfg]

end Frames

/-! ### Host writes, register by register (R63) -/

section HostWrites
variable {s t : State} {v : Word}

/-- The registers by what a host write to them is: dropped while BUSY = 1, W1C, or ignored. -/
theorem reg_write_kinds (r : Reg) :
    (r = .cmd ∨ r.isOperand = true) ∨ r = .status ∨ r = .info ∨ ∃ w, r = .out w := by
  cases r <;> simp [Reg.isOperand]

@[simp] theorem writeReg_none : writeReg none v s = .next s := rfl
@[simp] theorem writeReg_info : writeReg (some .info) v s = .next s := rfl
@[simp] theorem writeReg_out (w : Nat) : writeReg (some (.out w)) v s = .next s := rfl

theorem writeReg_status :
    writeReg (some .status) v s = .next { s with ovr := if v.getLsbD 2 then false else s.ovr } := by
  rw [writeReg_plain (by simp), writePlain_status]

/-- The write action of an operand register is one update, dropped while BUSY = 1 (R67), that keeps OVR. -/
theorem writePlain_operand {r : Reg} (hr : r.isOperand = true) :
    ∃ u : State → State, (∀ s : State, writePlain (some r) v s = s.writeOperand u) ∧
      ∀ s : State, (u s).ovr = s.ovr := by
  cases r with
  | argK => exact ⟨_, fun _ => rfl, fun _ => rfl⟩
  | keyLen => exact ⟨_, fun _ => rfl, fun _ => rfl⟩
  | key j => exact ⟨_, fun _ => rfl, fun _ => rfl⟩
  | opa w => exact ⟨_, fun _ => rfl, fun _ => rfl⟩
  | opb w => exact ⟨_, fun _ => rfl, fun _ => rfl⟩
  | cmd | status | info | out w => cases hr

theorem writeReg_operand {r : Reg} (hr : r.isOperand = true) :
    writeReg (some r) v s = .next (writePlain (some r) v s) :=
  writeReg_plain (by rintro ⟨⟩; cases hr)

/-- A write to CMD by the host: the word is presented as a command, or is ILLEGAL. -/
theorem writeReg_cmd_host (hs : s.turn = .host) :
    (∃ i, decode v = .ok i ∧ writeReg (some .cmd) v s = .next (s.onCmdWrite i (checkOf i))) ∨
    (∃ e, decode v = .error e ∧ writeReg (some .cmd) v s = .next s.onIllegalWrite) := by
  cases hd : decode v with
  | ok i => exact .inl ⟨i, rfl, by rw [writeReg_cmd_ok hd, exec_host s i hs]⟩
  | error e => exact .inr ⟨e, rfl, writeReg_cmd_error hd⟩

/-- R67: while BUSY = 1 a write to CMD or to an operand register is dropped. -/
theorem writeReg_of_busy {r : Reg} (hs : s.turn = .host) (hb : s.busy = true)
    (hr : r = .cmd ∨ r.isOperand = true) : writeReg (some r) v s = .next s.dropWrite := by
  obtain rfl | hr := hr
  · obtain ⟨i, -, hw⟩ | ⟨e, -, hw⟩ := writeReg_cmd_host (v := v) hs
    · rw [hw, onCmdWrite_busy hb]
    · rw [hw, onIllegalWrite_busy hb]
  · obtain ⟨u, hu, -⟩ := writePlain_operand (v := v) hr
    rw [writeReg_operand hr, hu, writeOperand_busy hb]

theorem writeReg_ovr_of_idle {r : Reg} (hs : s.turn = .host) (hb : s.busy = false)
    (hr : r = .cmd ∨ r.isOperand = true) (hw : writeReg (some r) v s = .next t) : t.ovr = s.ovr := by
  obtain rfl | hr := hr
  · obtain ⟨i, -, h⟩ | ⟨e, -, h⟩ := writeReg_cmd_host (v := v) hs <;> rw [h] at hw <;> cases hw
    · exact onCmdWrite_ovr_of_idle hb
    · rw [onIllegalWrite_idle hb, State.raise_ovr]
  · obtain ⟨u, hu, hkeep⟩ := writePlain_operand (v := v) hr
    rw [writeReg_operand hr, hu, writeOperand_idle hb] at hw
    cases hw
    exact hkeep s

/-- What a host write does to OVR (R37, R67): it keeps it, clears it by bit 2 of a word written to STATUS, or is dropped
and sets it. -/
theorem writeReg_ovr_cases {r : Option Reg} (hs : s.turn = .host) (hw : writeReg r v s = .next t) :
    t.ovr = s.ovr ∨
    (r = some .status ∧ v.getLsbD 2 = true ∧ t.ovr = false) ∨
    (s.busy = true ∧ (∃ r', r = some r' ∧ (r' = .cmd ∨ r'.isOperand = true)) ∧ t.ovr = true) := by
  cases r with
  | none => rw [writeReg_none] at hw; cases hw; exact .inl rfl
  | some r =>
    obtain hr | rfl | rfl | ⟨w, rfl⟩ := reg_write_kinds r
    · cases hb : s.busy with
      | true =>
        rw [writeReg_of_busy hs hb hr] at hw; cases hw
        exact .inr (.inr ⟨rfl, ⟨r, rfl, hr⟩, rfl⟩)
      | false => exact .inl (writeReg_ovr_of_idle hs hb hr hw)
    · rw [writeReg_status] at hw; cases hw
      cases hv : v.getLsbD 2 with
      | true => exact .inr (.inl ⟨rfl, rfl, rfl⟩)
      | false => exact .inl rfl
    · rw [writeReg_info] at hw; cases hw; exact .inl rfl
    · rw [writeReg_out] at hw; cases hw; exact .inl rfl

theorem writeReg_cfg {r : Option Reg} (hs : s.turn = .host) (hw : writeReg r v s = .next t) : t.cfg = s.cfg := by
  by_cases hr : r = some .cmd
  · subst hr
    obtain ⟨i, -, h⟩ | ⟨e, -, h⟩ := writeReg_cmd_host (v := v) hs <;> rw [h] at hw <;> cases hw
    · exact onCmdWrite_cfg
    · exact onIllegalWrite_cfg
  · rw [writeReg_plain hr] at hw; cases hw
    exact writePlain_frame.1

end HostWrites

/-! ### OVR and the configuration over one step -/

section Steps
variable {s t : State}

/-- A read changes at most the count of free draws (R69). -/
theorem readReg_frame (r : Option Reg) : (readReg r s).2 = { s with freeDraws := (readReg r s).2.freeDraws } := by
  obtain h | ⟨-, -, h⟩ := readReg_state (r := r) (s := s) <;> rw [h]

theorem hostTurn_ovr_cases (hs : s.turn = .host) (h : hostTurn s = .next t) :
    t.ovr = s.ovr ∨
    ∃ a v rest r, s.program = .write a v :: rest ∧ locate s.cfg a = .ok (some r) ∧
      ((r = .status ∧ v.getLsbD 2 = true ∧ t.ovr = false) ∨
        (s.busy = true ∧ (r = .cmd ∨ r.isOperand = true) ∧ t.ovr = true)) := by
  obtain ⟨-, rfl⟩ | ⟨a, v, rest, r, hp, hl, hw⟩ | ⟨a, rest, r, -, -, rfl⟩ | ⟨rest, -, rfl⟩ := hostTurn_cases h
  · exact .inl rfl
  · obtain hk | ⟨rfl, hv, ho⟩ | ⟨hb, ⟨r', rfl, hr⟩, ho⟩ := writeReg_ovr_cases (s := { s with program := rest }) hs hw
    · exact .inl hk
    · exact .inr ⟨a, v, rest, _, hp, hl, .inl ⟨rfl, hv, ho⟩⟩
    · exact .inr ⟨a, v, rest, r', hp, hl, .inr ⟨hb, hr, ho⟩⟩
  · left; rw [State.record_ovr, readReg_frame]
  · left; split <;> rfl

theorem hostTurn_cfg (hs : s.turn = .host) (h : hostTurn s = .next t) : t.cfg = s.cfg := by
  obtain ⟨-, rfl⟩ | ⟨a, v, rest, r, -, -, hw⟩ | ⟨a, rest, r, -, -, rfl⟩ | ⟨rest, -, rfl⟩ := hostTurn_cases h
  · rfl
  · exact writeReg_cfg (s := { s with program := rest }) hs hw
  · rw [State.record_cfg, readReg_frame]
  · split <;> rfl

/-- An engine step writes the generator state, SEEDED, OUT, BUSY and CUR_OP at most (R246, R282). -/
theorem engineTurn_frame (hs : s.turn = .engine) (h : engineTurn s = .next t) :
    t = { s with gen := t.gen, seeded := t.seeded, out := t.out, busy := t.busy, curOp := t.curOp } := by
  obtain ⟨-, rfl⟩ | ⟨-, i, -, hx⟩ := engineTurn_cases h
  · rfl
  · rw [exec_engine s i hs] at hx; cases hx
    exact runOf_frame

theorem step_cfg (h : step s = .next t) : t.cfg = s.cfg := by
  obtain ⟨q, ⟨-, ht⟩ | ⟨-, ht⟩ | ⟨-, rfl⟩⟩ := step_cases h
  · rw [hostTurn_cfg rfl ht]
  · rw [engineTurn_frame rfl ht]
  · rw [State.resetEvent_cfg]

/-- What one step does to OVR: it keeps it, the reset event clears it, or a host write clears or sets it (R37). -/
theorem step_ovr_cases (h : step s = .next t) :
    t.ovr = s.ovr ∨
    (∃ q, s.nextTurn = (.reset, q) ∧ t.ovr = false) ∨
    ∃ q a v rest r, s.nextTurn = (.host, q) ∧ s.program = .write a v :: rest ∧ locate s.cfg a = .ok (some r) ∧
      ((r = .status ∧ v.getLsbD 2 = true ∧ t.ovr = false) ∨
        (s.busy = true ∧ (r = .cmd ∨ r.isOperand = true) ∧ t.ovr = true)) := by
  obtain ⟨q, ⟨hn, ht⟩ | ⟨-, ht⟩ | ⟨hn, rfl⟩⟩ := step_cases h
  · obtain hk | ⟨a, v, rest, r, hwrite⟩ := hostTurn_ovr_cases rfl ht
    · exact .inl hk
    · exact .inr (.inr ⟨q, a, v, rest, r, hn, hwrite⟩)
  · left; rw [engineTurn_frame rfl ht]
  · exact .inr (.inl ⟨q, hn, rfl⟩)

end Steps

/-! ### The words a host reads from STATUS and INFO -/

section Words

/-- R35: every bit of STATUS; ERR is 4 bits wide, so the bits above it are 0. -/
theorem statusWord_getLsbD (s : State) (n : Nat) :
    s.statusWord.getLsbD n =
      if n = 0 then s.busy else if n = 1 then s.seeded else if n = 2 then s.ovr else if n = 3 then false
      else s.err.code.getLsbD (n - 4) := by
  change (0#24 ++ s.err.code ++ 0#1 ++ BitVec.ofBool s.ovr ++ BitVec.ofBool s.seeded ++
    BitVec.ofBool s.busy).getLsbD n = _
  simp only [BitVec.getLsbD_append]
  match n with
  | 0 | 1 | 2 | 3 => simp
  | n + 4 => simpa using BitVec.lt_of_getLsbD

theorem statusWord_err (s : State) : s.statusWord.extractLsb' 4 4 = s.err.code := by
  apply BitVec.eq_of_getLsbD_eq
  intro n hn
  rw [BitVec.getLsbD_extractLsb', statusWord_getLsbD]
  simp [hn, show 4 + n ≠ 1 ∧ 4 + n ≠ 2 ∧ 4 + n ≠ 3 by omega]

theorem statusWord_reserved (s : State) {n : Nat} (hn : 8 ≤ n) : s.statusWord.getLsbD n = false := by
  rw [statusWord_getLsbD, BitVec.getLsbD_of_ge _ _ (by omega)]
  simp [show n ≠ 0 ∧ n ≠ 1 ∧ n ≠ 2 by omega]

theorem statusWord_eq_zero {s : State} (hb : s.busy = false) (hs : s.seeded = false) (ho : s.ovr = false)
    (he : s.err = .ok) : s.statusWord = 0#32 := by
  rw [State.statusWord, hb, hs, ho, he]; rfl

theorem config_wf_iff (c : Config) :
    c.wf = true ↔ (1 ≤ c.keymax ∧ c.keymax ≤ 1024) ∧ (2 ≤ c.xwords ∧ c.xwords ≤ 1024) ∧ c.base % 0x8000 = 0 := by
  simp [Config.wf, and_assoc]

/-- R41: INFO as a number, where KEYMAX and XWORDS fit their fields of 11 bits. -/
theorem infoWord_toNat {c : Config} (hk : c.keymax < 2 ^ 11) (hx : c.xwords < 2 ^ 11) :
    (Config.infoWord c).toNat = c.xwords * 2 ^ 16 + c.keymax := by
  change (0#5 ++ BitVec.ofNat 11 c.xwords ++ 0#5 ++ BitVec.ofNat 11 c.keymax).toNat = _
  simp only [BitVec.toNat_append, BitVec.toNat_ofNat, Nat.mod_eq_of_lt hk, Nat.mod_eq_of_lt hx]
  rw [← Nat.shiftLeft_add_eq_or_of_lt hk]
  simp [Nat.shiftLeft_eq]
  omega

end Words

/-! ### Reset (R50, R270) -/

/-- State.reset is a reset event of its own configuration, so what holds after every reset event holds there. -/
theorem reset_eq_resetEvent : State.reset = State.reset.resetEvent := rfl

/-! ### The statements of 10_state.md -/

/-- Settles O44: the two writes and the reset event by their equations, the converse by what one step does to OVR. -/
theorem overrunIsSetByDroppedWritesAndClearedByStatusOrReset :
    Obligations.OverrunIsSetByDroppedWritesAndClearedByStatusOrReset := by
  refine ⟨fun s r v hs hb hr => ⟨_, writeReg_of_busy hs hb hr, State.dropWrite_ovr s⟩,
    fun s v hv => ⟨_, writeReg_status, if_pos hv⟩, fun s q hn => ⟨_, step_reset hn, rfl⟩, fun s t h => ?_⟩
  obtain hk | ⟨q, hn, ho⟩ | ⟨q, a, v, rest, r, hn, hp, hl, ⟨rfl, hv, ho⟩ | ⟨hb, hr, ho⟩⟩ := step_ovr_cases h
  · exact ⟨fun h₁ h₀ => by simp [hk, h₁] at h₀, fun h₀ h₁ => by simp [hk, h₀] at h₁⟩
  · exact ⟨fun _ _ => .inl ⟨q, hn⟩, fun _ h₁ => by simp [ho] at h₁⟩
  · exact ⟨fun _ _ => .inr ⟨q, a, v, rest, hn, hp, hl, hv⟩, fun _ h₁ => by simp [ho] at h₁⟩
  · exact ⟨fun _ h₀ => by simp [ho] at h₀, fun _ _ => ⟨hb, q, a, v, rest, r, hn, hp, hl, hr⟩⟩

/-- Settles O47, field by field. -/
theorem statusRegisterHasItsFields : Obligations.StatusRegisterHasItsFields := by
  intro s
  exact ⟨rfl, statusWord_getLsbD s 0, statusWord_getLsbD s 1, statusWord_getLsbD s 2, statusWord_getLsbD s 3,
    statusWord_err s, fun n hn => statusWord_reserved s hn, statusWord_eq_zero rfl rfl rfl rfl,
    fun v => writeReg_status⟩

/-- Settles O48: INFO is read off the configuration, which no step changes. -/
theorem infoRegisterHoldsTheConfiguration : Obligations.InfoRegisterHoldsTheConfiguration := by
  refine ⟨fun c hc => ?_, fun s v => ⟨rfl, writeReg_info, writeReg_out⟩, fun s t h => ?_⟩
  · obtain ⟨⟨-, hk⟩, ⟨-, hx⟩, -⟩ := (config_wf_iff c).mp hc
    rw [infoWord_toNat (by omega) (by omega)]
    omega
  · exact congrArg Config.infoWord (step_cfg h)

/-- Settles O53: State.reset and the state after a reset event are both a `resetEvent`, whose fields are R50's. -/
theorem resetGivesTheResetValues : Obligations.ResetGivesTheResetValues := by
  refine ⟨fun s q hn => ⟨_, step_reset hn, rfl⟩, fun t ht => ?_⟩
  obtain ⟨s, rfl⟩ : ∃ s : State, t = s.resetEvent := by
    obtain rfl | ⟨s, q, hn, h⟩ := ht
    · exact ⟨_, reset_eq_resetEvent⟩
    · rw [step_reset hn] at h; cases h
      exact ⟨_, rfl⟩
  exact ⟨rfl, rfl, rfl, rfl, rfl, statusWord_eq_zero rfl rfl rfl rfl, rfl, rfl, rfl, rfl, rfl, rfl, rfl⟩

end Sys2Proof.Machine

namespace Sys2Proof.Machine

/-! ### Where a host access lands (R60 to R62) -/

section RegisterMap
variable {c : Config}

theorem offsetOf_aligned (r : Reg) : offsetOf r % 4 = 0 := by
  cases r <;> simp [offsetOf]

/-- The map of R60 yields only registers the configuration has, each at its own offset. -/
theorem decodeOffset_some {off : Nat} {r : Reg} (h : decodeOffset c off = some r) :
    r.existsIn c = true ∧ offsetOf r = off := by
  unfold decodeOffset at h
  split_ifs at h <;> cases h
  all_goals
    constructor <;> simp only [Reg.existsIn, offsetOf, decide_eq_true_eq] <;> omega

/-- An offset no existing register has is unmapped (R62). -/
theorem decodeOffset_none {off : Nat} (h : ∀ r : Reg, r.existsIn c = true → offsetOf r ≠ off) :
    decodeOffset c off = none := by
  cases hd : decodeOffset c off with
  | none => rfl
  | some r =>
    obtain ⟨hr, ho⟩ := decodeOffset_some hd
    exact absurd ho (h r hr)

/-- The slots of an array that the configuration leaves out are in the array's own 4 KiB, which no other register
shares, so their offsets are unmapped (R60, R62). -/
theorem decodeOffset_absent_slot {r : Reg} {n : Nat} (hc : c.wf = true) (hn : n < 1024)
    (hslot : r = .key n ∨ r = .opa n ∨ r = .opb n ∨ r = .out n) (hr : r.existsIn c = false) :
    decodeOffset c (offsetOf r) = none := by
  obtain ⟨⟨-, hk⟩, ⟨-, hx⟩, -⟩ := (config_wf_iff c).mp hc
  refine decodeOffset_none fun r' hr' ho => ?_
  obtain rfl | rfl | rfl | rfl := hslot <;> cases r'
  all_goals
    simp only [Reg.existsIn, offsetOf, decide_eq_true_eq, decide_eq_false_iff_not] at hr hr' ho
    omega

/-- A named access is inside the interface where the offset of the register is inside the window (R61, R65). -/
theorem locate_accessOf {r : Reg} (hc : c.wf = true) (ho : offsetOf r < 0x8000) :
    locate c (accessOf c r) = .ok (decodeOffset c (offsetOf r)) := by
  obtain ⟨-, -, hb⟩ := (config_wf_iff c).mp hc
  have ha := offsetOf_aligned r
  have hword : (accessOf c r).isWord = true := rfl
  have haligned : (accessOf c r).isAligned = true :=
    decide_eq_true (show (c.base + offsetOf r) % 4 = 0 by omega)
  have hwindow : (accessOf c r).inWindow c = true :=
    Bool.and_eq_true_iff.mpr ⟨decide_eq_true (Nat.le_add_right ..), decide_eq_true (Nat.add_lt_add_left ho _)⟩
  have hoff : (accessOf c r).addr % 0x8000 = offsetOf r :=
    show (c.base + offsetOf r) % 0x8000 = offsetOf r by omega
  simp [locate, hword, haligned, hwindow, hoff]

theorem locate_absent_slot {r : Reg} {n : Nat} (hc : c.wf = true) (hn : n < 1024)
    (hslot : r = .key n ∨ r = .opa n ∨ r = .opb n ∨ r = .out n) (hr : r.existsIn c = false) :
    locate c (accessOf c r) = .ok none := by
  have ho : offsetOf r < 0x8000 := by
    obtain rfl | rfl | rfl | rfl := hslot <;> simp only [offsetOf] <;> omega
  rw [locate_accessOf hc ho, decodeOffset_absent_slot hc hn hslot hr]

end RegisterMap

/-! ### One transaction of the host, by where its access lands (R100) -/

section Transactions
variable {s : State} {a : Access} {rest : List HostOp} {r : Option Reg}

@[simp] theorem readReg_none : readReg none s = (0#32, s) := rfl

theorem hostTurn_write {v : Word} (hp : s.program = .write a v :: rest) (hl : locate s.cfg a = .ok r) :
    hostTurn s = writeReg r v { s with program := rest } := by
  simp only [hostTurn, hp, hl]

theorem hostTurn_read (hp : s.program = .read a :: rest) (hl : locate s.cfg a = .ok r) :
    hostTurn s = .next ((readReg r { s with program := rest }).2.record (readReg r { s with program := rest }).1) := by
  simp only [hostTurn, hp, hl]

/-- An access at an unmapped offset reaches no register: a write is ignored, a read returns 0 (R62). -/
theorem hostTurn_write_unmapped {v : Word} (hp : s.program = .write a v :: rest) (hl : locate s.cfg a = .ok none) :
    hostTurn s = .next { s with program := rest } := by
  rw [hostTurn_write hp hl, writeReg_none]

theorem hostTurn_read_unmapped (hp : s.program = .read a :: rest) (hl : locate s.cfg a = .ok none) :
    hostTurn s = .next { s with program := rest, results := s.results ++ [0#32] } := by
  rw [hostTurn_read hp hl, readReg_none]; rfl

end Transactions

/-! ### The statements of 20_memory.md -/

/-- Settles O42: an unmapped access reaches no register, and the array slots a configuration leaves out are unmapped. -/
theorem unmappedOffsetsReadZeroAndIgnoreWrites : Obligations.UnmappedOffsetsReadZeroAndIgnoreWrites := by
  refine ⟨fun s q a v rest hn hl => ⟨fun hp => ?_, fun hp => ?_⟩, fun c n hc hlt => ⟨fun hk => ?_, fun hx => ?_⟩⟩
  · rw [step_host hn]; exact hostTurn_write_unmapped hp hl
  · rw [step_host hn]; exact hostTurn_read_unmapped hp hl
  · exact locate_absent_slot hc hlt (.inl rfl) (decide_eq_false hk.not_gt)
  · have habsent : decide (n < c.xwords) = false := decide_eq_false hx.not_gt
    exact ⟨locate_absent_slot hc hlt (.inr (.inl rfl)) habsent,
      locate_absent_slot hc hlt (.inr (.inr (.inl rfl))) habsent,
      locate_absent_slot hc hlt (.inr (.inr (.inr rfl))) habsent⟩

/-- Settles O43: the drop by the equation of a write while BUSY = 1, the STATUS write by its own, which does not ask
for BUSY. -/
theorem writesAreDroppedWhileBusy : Obligations.WritesAreDroppedWhileBusy :=
  fun _ _ hs => ⟨fun hb _ _ hr => writeReg_of_busy hs hb hr, writeReg_status⟩

end Sys2Proof.Machine

namespace Sys2Proof.Machine

/-! ### The command word and its decoder (R90 to R93) -/

section CommandWords
variable {w : Word} {i : Instr}

/-- CMD32 is RSV above OP (R90): the two fields are the whole word. -/
theorem rsvField_append_opField (w : Word) : rsvField w ++ opField w = w :=
  BitVec.extractLsb'_append_extractLsb' (w := 28) (len := 4)

/-- The opcode map read both ways (R91): an OP value selects the command it belongs to, and no other. -/
theorem commandOfOp_eq_some_iff {op : BitVec 4} : commandOfOp op = some i ↔ op = opOf i := by
  constructor
  · intro h
    unfold commandOfOp at h
    split_ifs at h <;> cases h <;> assumption
  · rintro rfl
    cases i <;> rfl

theorem decode_eq_ok_iff_fields : decode w = .ok i ↔ rsvField w = 0#28 ∧ opField w = opOf i := by
  rw [← commandOfOp_eq_some_iff]
  unfold decode
  split_ifs with hr
  · simp [hr]
  · rw [not_not] at hr
    cases commandOfOp (opField w) <;> simp [hr]

theorem encodesTableWord (i : Instr) : Laws.EncodesTableWord.Statement i := by
  cases i with
  | seed => exact Laws.EncodesTableWord.seed
  | random => exact Laws.EncodesTableWord.random
  | getrandbits => exact Laws.EncodesTableWord.getrandbits
  | randbelow => exact Laws.EncodesTableWord.randbelow
  | randint => exact Laws.EncodesTableWord.randint

/-- Only its own word decodes to a command (R92). -/
theorem decode_eq_ok_iff : decode w = .ok i ↔ w = commandWord i := by
  obtain ⟨hword, hrsv, hop⟩ := encodesTableWord i
  rw [← hword, decode_eq_ok_iff_fields]
  constructor
  · rintro ⟨hr, ho⟩
    rw [← rsvField_append_opField w, hr, ho, encode]
  · rintro rfl
    exact ⟨hrsv, hop⟩

/-- Decoding is total, so a word is ILLEGAL where it is the word of no command (R92). -/
theorem decode_illegal_iff : (∃ e, decode w = .error e) ↔ ∀ i, w ≠ commandWord i := by
  constructor
  · rintro ⟨e, he⟩ i hw
    rw [decode_eq_ok_iff.mpr hw] at he
    cases he
  · intro hw
    cases hd : decode w with
    | ok i => exact absurd (decode_eq_ok_iff.mp hd) (hw i)
    | error e => exact ⟨e, rfl⟩

/-- The illegal words of R93, by their fields: RSV is not 0, or OP is 0x0 or one of 0x6 to 0xF. -/
theorem decode_illegal_of_fields (h : w >>> 4 ≠ 0#32 ∨ w &&& 0xF#32 = 0#32 ∨ 0x6#32 ≤ w &&& 0xF#32) :
    ∃ e, decode w = .error e := by
  refine decode_illegal_iff.mpr ?_
  rintro i rfl
  revert h
  cases i <;> decide

/-- A host write of an illegal word to CMD is OnCmdWrite's ILLEGAL branch, the transaction taken off the program. -/
theorem hostTurn_write_illegal {s : State} {a : Access} {rest : List HostOp} {e : DecodeError}
    (hp : s.program = .write a w :: rest) (hl : locate s.cfg a = .ok (some .cmd)) (he : decode w = .error e) :
    hostTurn s = .next (State.onIllegalWrite { s with program := rest }) := by
  rw [hostTurn_write hp hl, writeReg_cmd_error he]

end CommandWords

/-! ### The statements of 30_encoding.md -/

/-- Settles O2: each accepted word by `decode_eq_ok_iff`, the illegal words as the words of no command. -/
theorem decodeAcceptsExactlyTheFiveWords : Obligations.DecodeAcceptsExactlyTheFiveWords := by
  intro w
  refine ⟨decode_eq_ok_iff, decode_eq_ok_iff, decode_eq_ok_iff, decode_eq_ok_iff, decode_eq_ok_iff, ?_⟩
  rw [decode_illegal_iff]
  constructor
  · intro h
    exact ⟨h .seed, h .random, h .getrandbits, h .randbelow, h .randint⟩
  · rintro ⟨h1, h2, h3, h4, h5⟩ i
    cases i <;> assumption

/-- Settles O7: the word is illegal by its fields, so the transaction is `onIllegalWrite`, which raises or drops by
BUSY. -/
theorem illegalWordIsRefusedOrDropped : Obligations.IllegalWordIsRefusedOrDropped := by
  refine ⟨rfl, fun s q a v rest hn hp hl hv => ?_⟩
  obtain ⟨e, he⟩ := decode_illegal_of_fields hv
  have hstep : step s = .next (State.onIllegalWrite { s with schedule := q, turn := .host, program := rest }) := by
    rw [step_host hn]
    exact hostTurn_write_illegal hp hl he
  constructor
  · intro hb
    exact hstep.trans (congrArg _ (onIllegalWrite_idle hb))
  · intro hb
    exact hstep.trans (congrArg _ (onIllegalWrite_busy hb))

end Sys2Proof.Machine

namespace Sys2Proof.Machine

/-! ### Stage 1 of the key schedule (R122) -/

section Bootstrap
variable (mt : Vector Word 624)

/-- The word stage 1 puts into slot k + 1, from the word of slot k (R122). -/
def bootstrapWord (k : Nat) (prev : Word) : Word := initMult * scramble prev + BitVec.ofNat 32 (k + 1)

/-- What the first k iterations of stage 1 have established: the constant in slot 0 and the recurrence above it. -/
def FollowsBootstrap (k : Nat) (m : Vector Word 624) : Prop :=
  readMT m 0 = initSeed ∧ ∀ n, n < k → readMT m (n + 1) = bootstrapWord n (readMT m n)

theorem toNat_bootstrapWord (k : Nat) (prev : Word) :
    (bootstrapWord k prev).toNat = (1812433253 * (prev ^^^ (prev >>> 30)).toNat + (k + 1)) % 2 ^ 32 := by
  rw [bootstrapWord, BitVec.toNat_add, BitVec.toNat_mul, BitVec.toNat_ofNat, ← Nat.add_mod]
  rfl

/-- Iteration k writes slot k + 1 only, so the slots below it keep the recurrence. -/
theorem followsBootstrap_writeMT {k : Nat} {m : Vector Word 624} (hk : k < 623) (h : FollowsBootstrap k m) :
    FollowsBootstrap (k + 1) (writeMT m (k + 1) (bootstrapWord k (readMT m k))) := by
  obtain ⟨hzero, hrec⟩ := h
  have hbelow : ∀ n, n ≤ k → readMT (writeMT m (k + 1) (bootstrapWord k (readMT m k))) n = readMT m n :=
    fun n hn => readMT_writeMT_ne m _ (by omega)
  refine ⟨(hbelow 0 (Nat.zero_le k)).trans hzero, fun n hn => ?_⟩
  rw [hbelow n (by omega)]
  rcases Nat.lt_succ_iff_lt_or_eq.mp hn with hlt | rfl
  · rw [hbelow (n + 1) hlt, hrec n hlt]
  · exact readMT_writeMT_self m _ (by omega)

theorem followsBootstrap_bootstrap : FollowsBootstrap 623 (bootstrap mt) :=
  forRange_invariant FollowsBootstrap
    ⟨readMT_writeMT_self mt initSeed (by decide), fun n hn => absurd hn (Nat.not_lt_zero n)⟩
    fun _ _ => followsBootstrap_writeMT

/-- The recurrence determines every slot. -/
theorem FollowsBootstrap.unique {m m' : Vector Word 624} (h : FollowsBootstrap 623 m) (h' : FollowsBootstrap 623 m') :
    m = m' := by
  obtain ⟨hzero, hrec⟩ := h
  obtain ⟨hzero', hrec'⟩ := h'
  refine mt_ext fun n => ?_
  induction n with
  | zero => intro _; rw [hzero, hzero']
  | succ n ih =>
    intro hn
    rw [hrec n (by omega), hrec' n (by omega), ih (by omega)]

/-- Stage 1 overwrites every slot: it forgets what MT held. -/
theorem bootstrap_eq (mt' : Vector Word 624) : bootstrap mt = bootstrap mt' :=
  (followsBootstrap_bootstrap mt).unique (followsBootstrap_bootstrap mt')

end Bootstrap

/-! ### One step of the mixing passes (R123, R124) -/

section Mixing
variable {m : MixState} {key : List Word} {len : Nat}

theorem wrapSlot_of_lt (h : m.i < 624) : wrapSlot m = m := if_neg h.not_ge

theorem wrapSlot_of_ge (h : 624 ≤ m.i) : wrapSlot m = { m with mt := writeMT m.mt 0 (readMT m.mt 623), i := 1 } :=
  if_pos h

@[simp] theorem wrapSlot_j : (wrapSlot m).j = m.j := by
  unfold wrapSlot; split <;> rfl

@[simp] theorem wrapKey_mt : (wrapKey len m).mt = m.mt := by
  unfold wrapKey; split <;> rfl

@[simp] theorem wrapKey_i : (wrapKey len m).i = m.i := by
  unfold wrapKey; split <;> rfl

theorem wrapKey_j : (wrapKey len m).j = if m.j < len then m.j else 0 := by
  rcases Nat.lt_or_ge m.j len with h | h
  · rw [if_pos h, wrapKey, if_neg h.not_ge]
  · rw [if_neg h.not_gt, wrapKey, if_pos h]

/-- What both passes do to MT and to the slot index: v goes into slot i, and i advances, with the wrap from 623 to 1
that copies slot 623 to slot 0; no other slot changes. -/
def WritesSlot (m m' : MixState) (v : Word) : Prop :=
  readMT m'.mt m.i = v ∧
  (m.i < 623 → m'.i = m.i + 1 ∧ readMT m'.mt 0 = readMT m.mt 0) ∧
  (m.i = 623 → m'.i = 1 ∧ readMT m'.mt 0 = v) ∧
  ∀ n, n ≠ 0 → n ≠ m.i → readMT m'.mt n = readMT m.mt n

theorem writesSlot_wrapSlot (h1 : 1 ≤ m.i) (h2 : m.i ≤ 623) (v : Word) (j : Nat) :
    WritesSlot m (wrapSlot { mt := writeMT m.mt m.i v, i := m.i + 1, j := j }) v := by
  have hself : readMT (writeMT m.mt m.i v) m.i = v := readMT_writeMT_self m.mt v (by omega)
  have hother : ∀ n, n ≠ m.i → readMT (writeMT m.mt m.i v) n = readMT m.mt n :=
    fun n hn => readMT_writeMT_ne m.mt v hn.symm
  rcases h2.lt_or_eq with hlt | heq
  · rw [wrapSlot_of_lt (Nat.succ_lt_succ hlt)]
    exact ⟨hself, fun _ => ⟨rfl, hother 0 (by omega)⟩, fun h => absurd h hlt.ne, fun n _ hn => hother n hn⟩
  · have hcopy : readMT (writeMT m.mt m.i v) 623 = v := heq ▸ hself
    rw [wrapSlot_of_ge (Nat.succ_le_succ heq.ge)]
    refine ⟨?_, fun h => absurd heq h.ne, fun _ => ⟨rfl, ?_⟩, fun n h0 hn => ?_⟩
    · exact (readMT_writeMT_ne _ _ (by omega)).trans hself
    · exact (readMT_writeMT_self _ _ (by decide)).trans hcopy
    · exact (readMT_writeMT_ne _ _ h0.symm).trans (hother n hn)

/-- The word a step of stage 2a puts into slot i (R123). -/
def mixKeyWord (key : List Word) (m : MixState) : Word :=
  (readMT m.mt m.i ^^^ scramble (readMT m.mt (m.i - 1)) * mix1Mult) + wordAt key m.j + BitVec.ofNat 32 m.j

/-- The word a step of stage 2b puts into slot i (R124). -/
def mixPlainWord (m : MixState) : Word :=
  (readMT m.mt m.i ^^^ scramble (readMT m.mt (m.i - 1)) * mix2Mult) - BitVec.ofNat 32 m.i

theorem mixKeyStep_eq : mixKeyStep key m =
    wrapKey key.length (wrapSlot { mt := writeMT m.mt m.i (mixKeyWord key m), i := m.i + 1, j := m.j + 1 }) := rfl

theorem mixPlainStep_eq : mixPlainStep m =
    wrapSlot { mt := writeMT m.mt m.i (mixPlainWord m), i := m.i + 1, j := m.j } := rfl

theorem mixKeyStep_j : (mixKeyStep key m).j = if m.j + 1 < key.length then m.j + 1 else 0 := by
  rw [mixKeyStep_eq, wrapKey_j, wrapSlot_j]

theorem mixKeyStep_writesSlot (h1 : 1 ≤ m.i) (h2 : m.i ≤ 623) :
    WritesSlot m (mixKeyStep key m) (mixKeyWord key m) := by
  rw [mixKeyStep_eq, WritesSlot, wrapKey_mt, wrapKey_i]
  exact writesSlot_wrapSlot h1 h2 _ _

theorem mixPlainStep_writesSlot (h1 : 1 ≤ m.i) (h2 : m.i ≤ 623) :
    WritesSlot m (mixPlainStep m) (mixPlainWord m) :=
  writesSlot_wrapSlot h1 h2 _ _

theorem toNat_scramble_mul (p c : Word) :
    (scramble p * c).toNat = ((p ^^^ (p >>> 30)).toNat * c.toNat) % 2 ^ 32 := BitVec.toNat_mul _ _

theorem toNat_mixKeyWord (key : List Word) (m : MixState) :
    (mixKeyWord key m).toNat =
      (((readMT m.mt m.i).toNat ^^^
          ((readMT m.mt (m.i - 1) ^^^ (readMT m.mt (m.i - 1) >>> 30)).toNat * 1664525) % 2 ^ 32) +
        (wordAt key m.j).toNat + m.j) % 2 ^ 32 := by
  rw [mixKeyWord, BitVec.toNat_add, BitVec.toNat_add, BitVec.toNat_ofNat, BitVec.toNat_xor, toNat_scramble_mul,
    ← Nat.add_mod]
  rfl

theorem toNat_mixPlainWord (hi : m.i ≤ 623) :
    (mixPlainWord m).toNat =
      (((readMT m.mt m.i).toNat ^^^
          ((readMT m.mt (m.i - 1) ^^^ (readMT m.mt (m.i - 1) >>> 30)).toNat * 1566083941) % 2 ^ 32) +
        2 ^ 32 - m.i) % 2 ^ 32 := by
  rw [mixPlainWord, BitVec.toNat_sub, BitVec.toNat_ofNat, BitVec.toNat_xor, toNat_scramble_mul,
    Nat.mod_eq_of_lt (show m.i < 2 ^ 32 by omega), Nat.add_sub_assoc (by omega), Nat.add_comm]
  rfl

theorem mixKey_eq_iterate (key : List Word) (mt : Vector Word 624) :
    mixKey key mt = (mixKeyStep key)^[max 624 key.length] { mt := mt, i := 1, j := 0 } :=
  forRange_const _ _ _

theorem mixPlain_eq_iterate (m : MixState) : mixPlain m = mixPlainStep^[623] m := forRange_const _ _ _

end Mixing

/-! ### The whole key schedule (R125, R126) -/

section KeySchedule
variable (key : List Word) (g g' : GeneratorState)

theorem readMT_initByArray_zero : readMT (initByArray key g).mt 0 = 0x80000000#32 :=
  readMT_writeMT_self _ _ (by decide)

theorem readMT_initByArray_ne_zero {n : Nat} (h : n ≠ 0) :
    readMT (initByArray key g).mt n = readMT (mixPlain (mixKey key (bootstrap g.mt))).mt n :=
  readMT_writeMT_ne _ _ h.symm

theorem initByArray_eq : initByArray key g = initByArray key g' := by
  rw [initByArray, initByArray, bootstrap_eq g.mt g'.mt]

end KeySchedule

/-- L of R127 is the value of KEY_LEN. -/
theorem keyCount_eq (s : State) : s.keyCount = s.keyLen.toNat := rfl

/-! ### The statements of 40_seeding.md -/

/-- Settles O11: slot i is the word the recurrence gives for slot i - 1, read as an integer. -/
theorem bootstrapFollowsItsRecurrence : Obligations.BootstrapFollowsItsRecurrence := by
  intro mt
  obtain ⟨hzero, hrec⟩ := followsBootstrap_bootstrap mt
  refine ⟨hzero, fun i h1 h2 => ?_⟩
  obtain ⟨k, rfl⟩ := Nat.exists_eq_add_of_le' h1
  rw [hrec k (by omega), toNat_bootstrapWord, Nat.add_sub_cancel]

/-- Settles O12: the loop is an iterate, and one step writes the keyed word into its slot. -/
theorem keyedMixingFollowsItsFormula : Obligations.KeyedMixingFollowsItsFormula := by
  refine fun key _ => ⟨mixKey_eq_iterate key, fun m h1 h2 _ => ?_⟩
  obtain ⟨hslot, hnext, hwrap, hframe⟩ := mixKeyStep_writesSlot (key := key) h1 h2
  have hval := toNat_mixKeyWord key m
  refine ⟨hslot ▸ hval, mixKeyStep_j, hnext, fun h => ?_, hframe⟩
  obtain ⟨hi, hz⟩ := hwrap h
  exact ⟨hi, hz ▸ hval⟩

/-- Settles O13: as O12, with the word of stage 2b. -/
theorem plainMixingFollowsItsFormula : Obligations.PlainMixingFollowsItsFormula := by
  refine ⟨mixPlain_eq_iterate, fun m h1 h2 => ?_⟩
  obtain ⟨hslot, hnext, hwrap, hframe⟩ := mixPlainStep_writesSlot h1 h2
  have hval := toNat_mixPlainWord h2
  refine ⟨hslot ▸ hval, hnext, fun h => ?_, hframe⟩
  obtain ⟨hi, hz⟩ := hwrap h
  exact ⟨hi, hz ▸ hval⟩

/-- Settles O15: slot 0 is the word that is not 0. -/
theorem initByArrayForcesTheTopBit : Obligations.InitByArrayForcesTheTopBit := by
  intro key g
  have hzero := readMT_initByArray_zero key g
  refine ⟨hzero, fun n => readMT_initByArray_ne_zero key g, 0, by decide, ?_⟩
  rw [hzero]
  decide

/-- Settles O16: the old words enter through stage 1 only, which forgets them. -/
theorem initByArrayForgetsTheOldState : Obligations.InitByArrayForgetsTheOldState :=
  fun key g g' => ⟨rfl, initByArray_eq key g g'⟩

/-- Settles O17: the acceptance by the cases of the check, the engine step by `seedRun`. -/
theorem seedFollowsItsRule : Obligations.SeedFollowsItsRule := by
  refine ⟨decode_eq_ok_iff.mpr rfl, fun s hs hb => ⟨fun h1 h2 => ?_, fun h => ?_⟩, fun s hs => ?_⟩
  · obtain ⟨hbad, -⟩ | ⟨-, -, hc⟩ := seedCheck_cases (s := s)
    · rw [keyCount_eq] at hbad
      omega
    · rw [exec_host s .seed hs, checkOf_seed, onCmdWrite_ok hb (.inl rfl) hc]
      rfl
  · obtain ⟨-, hc⟩ | ⟨hlo, hhi, -⟩ := seedCheck_cases (s := s)
    · rw [exec_host s .seed hs, checkOf_seed, onCmdWrite_error hb (.inl rfl) hc]
      rfl
    · rw [keyCount_eq] at hlo hhi
      omega
  · refine ⟨initByArray s.keyWords s.gen, ?_, rfl, initByArray_idx s.gen s.keyWords,
      readMT_initByArray_zero s.keyWords s.gen⟩
    rw [exec_engine s .seed hs]
    rfl

end Sys2Proof.Machine

namespace Sys2Proof.Machine

/-! ### The two transitions of NextWord (R150) -/

section NextWord
variable {g : GeneratorState}

theorem refill_of_eq (h : g.idx = 624) : refill g = { mt := twist g.mt, idx := 0 } := if_pos h

theorem refill_of_lt (h : g.idx < 624) : refill g = g := if_neg h.ne

theorem nextWord_eq (g : GeneratorState) :
    nextWord g = (temper (readMT (refill g).mt (refill g).idx), { refill g with idx := (refill g).idx + 1 }) := rfl

end NextWord

/-! ### Tempering on integers (R152) -/

section Tempering
variable (y : Word) (k : Nat)

theorem toNat_xor_ushiftRight : (y ^^^ (y >>> k)).toNat = y.toNat ^^^ (y.toNat / 2 ^ k) := by
  rw [BitVec.toNat_xor, BitVec.toNat_ushiftRight, Nat.shiftRight_eq_div_pow]

theorem toNat_xor_shiftLeft_and (c : Word) :
    (y ^^^ ((y <<< k) &&& c)).toNat = y.toNat ^^^ ((y.toNat * 2 ^ k % 2 ^ 32) &&& c.toNat) := by
  rw [BitVec.toNat_xor, BitVec.toNat_and, BitVec.toNat_shiftLeft, Nat.shiftLeft_eq]

end Tempering

/-! ### The word of one twist iteration (R151) -/

section TwistWord
variable (cur nxt partner : Word)

/-- The combined value y takes its low bit from the next word. -/
theorem twistCombine_getLsbD_zero : (twistCombine cur nxt).getLsbD 0 = decide (nxt.toNat % 2 = 1) := by
  have hupper : upperMask.getLsbD 0 = false := by decide
  have hlower : lowerMask.getLsbD 0 = true := by decide
  rw [twistCombine, BitVec.getLsbD_or, BitVec.getLsbD_and, BitVec.getLsbD_and, hupper, hlower, Bool.and_false,
    Bool.false_or, Bool.and_true, BitVec.getLsbD, Nat.testBit_zero]

theorem twistWord_eq : twistWord cur nxt partner =
    partner ^^^ (twistCombine cur nxt >>> 1) ^^^ (if nxt.toNat % 2 = 1 then matrixA else 0#32) := by
  simp only [twistWord, twistCombine_getLsbD_zero, decide_eq_true_eq]
  split
  · rfl
  · rw [BitVec.xor_zero]

end TwistWord

/-! ### The in-place pass (R151, R153) -/

section TwistPass
variable {mt m : Vector Word 624} {i k : Nat}

/-- What iteration i of the pass from `mt` reads in slot j, where `m` is a later state of the pass: the new word if an
iteration before i wrote it, else the old one. -/
def readDuring (mt m : Vector Word 624) (i j : Nat) : Word := if j < i then readMT m j else readMT mt j

theorem readDuring_of_lt {j : Nat} (h : j < i) : readDuring mt m i j = readMT m j := if_pos h

theorem readDuring_of_le {j : Nat} (h : i ≤ j) : readDuring mt m i j = readMT mt j := if_neg h.not_gt

/-- A write to slot i or above changes nothing iteration i reads. -/
theorem readDuring_writeMT (h : i ≤ k) (v : Word) (j : Nat) :
    readDuring mt (writeMT m k v) i j = readDuring mt m i j := by
  rcases Nat.lt_or_ge j i with hj | hj
  · rw [readDuring_of_lt hj, readDuring_of_lt hj, readMT_writeMT_ne m v (by omega)]
  · rw [readDuring_of_le hj, readDuring_of_le hj]

/-- The word iteration i puts into slot i. -/
def twistedWord (mt m : Vector Word 624) (i : Nat) : Word :=
  twistWord (readMT mt i) (readDuring mt m i ((i + 1) % 624)) (readDuring mt m i ((i + 397) % 624))

/-- What the first k iterations of the pass have established: the old words from slot k on, and below it the words
those iterations formed. -/
def TwistedBelow (mt : Vector Word 624) (k : Nat) (m : Vector Word 624) : Prop :=
  (∀ j, k ≤ j → readMT m j = readMT mt j) ∧ ∀ i, i < k → readMT m i = twistedWord mt m i

/-- R153: iteration k reads MT as the iterations before it left it. -/
theorem TwistedBelow.readDuring_eq (h : TwistedBelow mt k m) (j : Nat) : readDuring mt m k j = readMT m j := by
  obtain ⟨hold, -⟩ := h
  rcases Nat.lt_or_ge j k with hj | hj
  · exact readDuring_of_lt hj
  · rw [readDuring_of_le hj, hold j hj]

theorem TwistedBelow.twistStep_eq (h : TwistedBelow mt k m) : twistStep k m = writeMT m k (twistedWord mt m k) := by
  have hslot : readMT m k = readMT mt k := h.1 k le_rfl
  rw [twistStep, twistedWord, h.readDuring_eq, h.readDuring_eq, hslot]

theorem TwistedBelow.succ (hk : k < 624) (h : TwistedBelow mt k m) : TwistedBelow mt (k + 1) (twistStep k m) := by
  rw [h.twistStep_eq]
  obtain ⟨hold, hnew⟩ := h
  have hkeep : ∀ i, i ≤ k → twistedWord mt (writeMT m k (twistedWord mt m k)) i = twistedWord mt m i := fun i hi => by
    rw [twistedWord, readDuring_writeMT hi, readDuring_writeMT hi, ← twistedWord]
  refine ⟨fun j hj => ?_, fun i hi => ?_⟩
  · rw [readMT_writeMT_ne m _ (by omega), hold j (by omega)]
  · rw [hkeep i (by omega)]
    rcases Nat.lt_succ_iff_lt_or_eq.mp hi with hlt | rfl
    · rw [readMT_writeMT_ne m _ hlt.ne', hnew i hlt]
    · exact readMT_writeMT_self m _ hk

theorem twistedBelow_twist (mt : Vector Word 624) : TwistedBelow mt 624 (twist mt) :=
  forRange_invariant (TwistedBelow mt) ⟨fun _ _ => rfl, fun i hi => absurd hi (Nat.not_lt_zero i)⟩
    fun _ _ => TwistedBelow.succ

theorem readMT_twist (hi : i < 624) : readMT (twist mt) i = twistedWord mt (twist mt) i :=
  (twistedBelow_twist mt).2 i hi

/-- The first 227 iterations read old words only. -/
theorem readMT_twist_low (hi : i ≤ 226) :
    readMT (twist mt) i = twistWord (readMT mt i) (readMT mt (i + 1)) (readMT mt (i + 397)) := by
  rw [readMT_twist (by omega), twistedWord, Nat.mod_eq_of_lt (by omega), Nat.mod_eq_of_lt (by omega),
    readDuring_of_le (by omega), readDuring_of_le (by omega)]

/-- From slot 227 on the partner index wraps, so the partner is a new word. -/
theorem readMT_twist_mid (h1 : 227 ≤ i) (h2 : i ≤ 622) :
    readMT (twist mt) i = twistWord (readMT mt i) (readMT mt (i + 1)) (readMT (twist mt) (i - 227)) := by
  have hpartner : (i + 397) % 624 = i - 227 := by omega
  rw [readMT_twist (by omega), twistedWord, Nat.mod_eq_of_lt (by omega), hpartner,
    readDuring_of_le (by omega), readDuring_of_lt (by omega)]

/-- In the last slot the next index wraps too. -/
theorem readMT_twist_last :
    readMT (twist mt) 623 = twistWord (readMT mt 623) (readMT (twist mt) 0) (readMT (twist mt) 396) :=
  readMT_twist (by decide)

end TwistPass

/-! ### The statements of 41_core_generator.md -/

/-- Settles O20: the pass slot by slot, each word in the form of `twistWord_eq`. -/
theorem twistFollowsTheDependencyOrder : Obligations.TwistFollowsTheDependencyOrder := by
  refine fun mt => ⟨fun i hi => ?_, fun i h1 h2 => ?_, ?_⟩
  · exact (readMT_twist_low hi).trans (twistWord_eq _ _ _)
  · exact (readMT_twist_mid h1 h2).trans (twistWord_eq _ _ _)
  · exact readMT_twist_last.trans (twistWord_eq _ _ _)

/-- Settles O19: the two cases of `refill`. -/
theorem nextWordTakesOneOfTwoTransitions : Obligations.NextWordTakesOneOfTwoTransitions := by
  refine fun g => ⟨fun h => ?_, fun h => ?_, nextWord_idx_le⟩
  · rw [nextWord_eq, refill_of_eq h]
  · rw [nextWord_eq, refill_of_lt h]

/-- Settles O22: each step of `temper` read as integers, the last step first. -/
theorem temperIsTruncatedIntegerArithmetic : Obligations.TemperIsTruncatedIntegerArithmetic := by
  intro y
  simp only [temper, toNat_xor_ushiftRight, toNat_xor_shiftLeft_and]
  rfl

end Sys2Proof.Machine

namespace Sys2Proof.Machine

/-! ### GetBits as a join of drawn words (R191, R192) -/

section GetBits
variable {k n m : Nat} (g : GeneratorState)

/-- One iteration of GetBits, at position w of n (R191): what it adds to the integer, and the generator it leaves. -/
def joinWord (k n w : Nat) (acc : Nat × GeneratorState) : Nat × GeneratorState :=
  (acc.1 + (placedWord k n w (nextWord acc.2).1).toNat * 2 ^ (32 * w), (nextWord acc.2).2)

theorem getBits_eq (k : Nat) : getBits k g = forRange (ceilDiv k 32) (joinWord k (ceilDiv k 32)) (0, g) := rfl

/-- GetBits shifts no word but the last one, and that one only where k is no multiple of 32. -/
theorem placedWord_of_unshifted {w : Nat} (h : w + 1 ≠ n ∨ k % 32 = 0) (x : Word) : placedWord k n w x = x :=
  if_neg fun ⟨hlast, hrest⟩ => h.elim (· hlast) hrest

theorem placedWord_last (h : k % 32 ≠ 0) (x : Word) : placedWord k (n + 1) n x = x >>> (32 - k % 32) :=
  if_pos ⟨rfl, h⟩

/-- While no word is shifted, the iterations join the drawn words as a multi-word register does: the first one is the
least significant. -/
theorem forRange_joinWord (h : m < n ∨ k % 32 = 0) :
    forRange m (joinWord k n) (0, g) = (wideOf (drawWords m g).1, (drawWords m g).2) := by
  induction m with
  | zero => rfl
  | succ m ih =>
    have hprev : m < n ∨ k % 32 = 0 := h.imp_left Nat.lt_of_succ_lt
    have hunshifted : m + 1 ≠ n ∨ k % 32 = 0 := h.imp_left Nat.ne_of_lt
    rw [forRange_succ, ih hprev, joinWord, placedWord_of_unshifted hunshifted, drawWords_succ_last, wideOf_append,
      drawWords_length, wideOf_cons, wideOf_nil, Nat.mul_zero, Nat.add_zero, Nat.mul_comm (2 ^ _)]

theorem getBits_whole (n : Nat) : getBits (32 * n) g = (wideOf (drawWords n g).1, (drawWords n g).2) := by
  have hcount : ceilDiv (32 * n) 32 = n := by unfold ceilDiv; omega
  rw [getBits_eq, hcount, forRange_joinWord g (.inr (Nat.mul_mod_right 32 n))]

theorem getBits_partial (n : Nat) {b : Nat} (hb : b < 32) (h0 : b ≠ 0) :
    getBits (32 * n + b) g =
      (wideOf (drawWords n g).1 + (nextWord (drawWords n g).2).1.toNat / 2 ^ (32 - b) * 2 ^ (32 * n),
        (nextWord (drawWords n g).2).2) := by
  have hcount : ceilDiv (32 * n + b) 32 = n + 1 := by unfold ceilDiv; omega
  have hrest : (32 * n + b) % 32 = b := by omega
  rw [getBits_eq, hcount, forRange_succ, forRange_joinWord g (.inl n.lt_succ_self), joinWord,
    placedWord_last (by rwa [hrest]), hrest, BitVec.toNat_ushiftRight, Nat.shiftRight_eq_div_pow]

/-- The top b bits of a word are below 2^b (R191). -/
theorem topBits_lt (x : Word) {b : Nat} (hb : b ≤ 32) : x.toNat / 2 ^ (32 - b) < 2 ^ b := by
  rw [Nat.div_lt_iff_lt_mul (Nat.two_pow_pos _), ← Nat.pow_add, Nat.add_sub_cancel' hb]
  exact x.isLt

/-- GetBits(k) fits k bits (R192): its whole words fill the low 32 n bits, the top bits of the last word the b above. -/
theorem getBits_lt (k : Nat) : (getBits k g).1 < 2 ^ k := by
  have hwords : wideOf (drawWords (k / 32) g).1 < 2 ^ (32 * (k / 32)) := by
    simpa using wideOf_lt (drawWords (k / 32) g).1
  rw [← Nat.div_add_mod k 32]
  by_cases hrest : k % 32 = 0
  · rwa [hrest, Nat.add_zero, getBits_whole]
  · have hlt : k % 32 < 32 := Nat.mod_lt k (by decide)
    rw [getBits_partial g _ hlt hrest, Nat.pow_add]
    have htop := topBits_lt (nextWord (drawWords (k / 32) g).2).1 hlt.le
    nlinarith

end GetBits

/-! ### The words of a value (R66) -/

section WideValues

/-- Splitting a multi-word value at its own word count gives its words back. -/
theorem wordsOf_wideOf (ws : List Word) : wordsOf ws.length (wideOf ws) = ws := by
  induction ws with
  | nil => rfl
  | cons w ws ih =>
    have hlow : BitVec.ofNat 32 (wideOf (w :: ws)) = w := by
      apply BitVec.eq_of_toNat_eq
      rw [BitVec.toNat_ofNat, wideOf_cons, Nat.add_mul_mod_self_left, Nat.mod_eq_of_lt w.isLt]
    have hhigh : wideOf (w :: ws) / 2 ^ 32 = wideOf ws := by
      rw [wideOf_cons, Nat.add_mul_div_left _ _ (by decide), Nat.div_eq_of_lt w.isLt, Nat.zero_add]
    rw [List.length_cons, wordsOf_succ, hlow, hhigh, ih]

theorem wideOf_wordsOf_of_lt {n v : Nat} (h : v < 2 ^ (32 * n)) : wideOf (wordsOf n v) = v := by
  rw [wideOf_wordsOf, Nat.mod_eq_of_lt h]

/-- A value below 2^(32 u) leaves the words from u on at 0, whether the register has them or not. -/
theorem wordAt_wordsOf_of_lt {n u v w : Nat} (hv : v < 2 ^ (32 * u)) (hw : u ≤ w) :
    wordAt (wordsOf n v) w = 0#32 := by
  rcases Nat.lt_or_ge w n with hlt | hge
  · have hpow : 2 ^ (32 * u) ≤ 2 ^ (32 * w) := Nat.pow_le_pow_right (by decide) (by omega)
    rw [wordAt_wordsOf v hlt, Nat.div_eq_of_lt (hv.trans_le hpow)]
  · exact wordAt_of_le (by rwa [wordsOf_length])

/-- ARG_K is read in two's complement (R190). -/
theorem kVal_eq_toInt (s : State) : s.kVal = s.argK.toInt := by
  have hk := s.argK.isLt
  rw [State.kVal, signedOf, BitVec.toInt_eq_toNat_cond]
  split_ifs <;> omega

end WideValues

/-! ### The binary64 pattern (R180, R182) -/

section Double
variable {m p : Nat}

/-- The bit length by the powers of two around the value (R9). -/
theorem bitlen_eq_succ_iff : bitlen m = p + 1 ↔ 2 ^ p ≤ m ∧ m < 2 ^ (p + 1) := by
  rw [← bitlen_le_iff, ← Nat.not_lt, ← bitlen_le_iff]
  omega

/-- F64 of a number with leading bit p: exponent 970 + p, the fraction below the leading bit (R182). -/
theorem f64_of_leading_bit (hlo : 2 ^ p ≤ m) (hhi : m < 2 ^ (p + 1)) :
    f64 m = (970 + p) * 2 ^ 52 + (m * 2 ^ (52 - p) - 2 ^ 52) := by
  have hpos : m ≠ 0 := (Nat.lt_of_lt_of_le (Nat.two_pow_pos p) hlo).ne'
  have hlen : bitlen m = p + 1 := bitlen_eq_succ_iff.mpr ⟨hlo, hhi⟩
  simp only [f64, if_neg hpos, hlen, Nat.add_sub_cancel]

theorem f64_zero : f64 0 = 0 := rfl

theorem f64_max : f64 (2 ^ 53 - 1) = 0x3FEFFFFFFFFFFFFF :=
  f64_of_leading_bit (p := 52) (by decide) (by decide)

/-- The pattern of every M stays below that of 1.0 (R181): the exponent is at most 1022, the fraction below 2^52. -/
theorem f64_lt_one (h : m < 2 ^ 53) : f64 m < 0x3FF0000000000000 := by
  rcases Nat.eq_zero_or_pos m with rfl | hpos
  · rw [f64_zero]; decide
  · obtain ⟨p, hp⟩ := Nat.exists_eq_succ_of_ne_zero (mt bitlen_eq_zero_iff.mp hpos.ne')
    obtain ⟨hlo, hhi⟩ := bitlen_eq_succ_iff.mp hp
    have hp52 : p ≤ 52 := by
      have := bitlen_le_iff.mpr h
      omega
    have hfraction : m * 2 ^ (52 - p) < 2 ^ 53 := calc
      m * 2 ^ (52 - p) < 2 ^ (p + 1) * 2 ^ (52 - p) := Nat.mul_lt_mul_of_pos_right hhi (Nat.two_pow_pos _)
      _ = 2 ^ 53 := by rw [← Nat.pow_add]; congr 1; omega
    rw [f64_of_leading_bit hlo hhi]
    omega

/-- M of R180 from the values of the two words. -/
theorem floatInteger_eq (wa wb : Word) :
    floatInteger wa wb = wa.toNat / 2 ^ 5 * 2 ^ 26 + wb.toNat / 2 ^ 6 := by
  simp only [floatInteger, BitVec.toNat_ushiftRight, Nat.shiftRight_eq_div_pow]

/-- M has 27 bits of the first word above 26 bits of the second (R180). -/
theorem floatInteger_lt (wa wb : Word) : floatInteger wa wb < 2 ^ 53 := by
  have ha := wa.isLt
  have hb := wb.isLt
  rw [floatInteger_eq]
  omega

end Double

/-! ### RANDOM and GETRANDBITS, by the agent whose step is under way -/

section EngineSteps
variable (s : State)

/-- The 53-bit integer RANDOM forms from the next two words of the stream. -/
def State.randomInteger : Nat :=
  floatInteger (wordAt (drawWords 2 s.gen).1 0) (wordAt (drawWords 2 s.gen).1 1)

theorem randomRun_eq :
    randomRun s = ((s.putGen (drawWords 2 s.gen).2).putOut (f64 s.randomInteger)).complete := rfl

theorem getrandbitsRun_eq :
    getrandbitsRun s =
      ((s.putGen (getBits s.curK s.gen).2).putOut (getBits s.curK s.gen).1).complete := rfl

theorem randomRun_out : (randomRun s).out = wordsOf s.cfg.xwords (f64 s.randomInteger) := by
  simp [randomRun_eq]

theorem getrandbitsRun_out : (getrandbitsRun s).out = wordsOf s.cfg.xwords (getBits s.curK s.gen).1 := by
  simp [getrandbitsRun_eq]

theorem getrandbitsRun_gen : (getrandbitsRun s).gen = (getBits s.curK s.gen).2 := by
  simp [getrandbitsRun_eq]

variable {s}

/-- With CUR_K at most XW, OUT holds all bits GetBits drew (R190). -/
theorem wideOf_getrandbitsRun_out (hk : s.curK ≤ 32 * s.cfg.xwords) :
    wideOf (getrandbitsRun s).out = (getBits s.curK s.gen).1 := by
  rw [getrandbitsRun_out]
  exact wideOf_wordsOf_of_lt ((getBits_lt s.gen s.curK).trans_le (Nat.pow_le_pow_right (by decide) hk))

end EngineSteps

section HostSteps
variable {s : State} {i : Instr}

/-- A production command on an idle engine without a seed is refused (R242). -/
theorem exec_host_not_seeded (hi : i ≠ .seed) (hs : s.turn = .host) (hb : s.busy = false)
    (hseed : s.seeded = false) : exec i s = .next (s.raise .notSeeded) := by
  rw [exec_host s i hs, onCmdWrite_not_seeded hb hi hseed]

/-- The three outcomes of presenting GETRANDBITS to an idle, seeded engine (R190), by the value of k. -/
theorem exec_getrandbits_host (hs : s.turn = .host) (hb : s.busy = false) (hseed : s.seeded = true) :
    (s.kVal < 0 → exec .getrandbits s = .next (s.raise .invalidArgument)) ∧
    ((s.cfg.kmax : Int) < s.kVal → exec .getrandbits s = .next (s.raise .operandRange)) ∧
    (0 ≤ s.kVal → s.kVal ≤ s.cfg.kmax →
      exec .getrandbits s = .next (State.accept { s with curK := s.kVal.toNat } .getrandbits)) := by
  rw [exec_host s .getrandbits hs, checkOf_getrandbits]
  obtain ⟨hneg, hc⟩ | ⟨hbig, hc⟩ | ⟨hlo, hhi, hc⟩ := getrandbitsCheck_cases (s := s)
  · rw [onCmdWrite_error hb (.inr hseed) hc]
    exact ⟨fun _ => rfl, fun _ => by omega, fun _ _ => by omega⟩
  · rw [onCmdWrite_error hb (.inr hseed) hc]
    exact ⟨fun _ => by omega, fun _ => rfl, fun _ _ => by omega⟩
  · rw [onCmdWrite_ok hb (.inr hseed) hc]
    exact ⟨fun _ => by omega, fun _ => by omega, fun _ _ => rfl⟩

end HostSteps

/-! ### The statements of 42_float_and_bits.md -/

/-- Settles O26: the words that are not shifted by the loop's invariant, the shifted one as its last iteration. -/
theorem getBitsJoinsWordsLowToHigh : Obligations.GetBitsJoinsWordsLowToHigh := by
  intro n b g hb
  exact ⟨fun _ => getBits_whole g n, fun h0 => getBits_partial g n hb h0⟩

/-- Settles O27: RANDOM has no check of its own, and OUT is the words of a pattern below 2^64. -/
theorem randomFollowsItsRule : Obligations.RandomFollowsItsRule := by
  refine ⟨decode_eq_ok_iff.mpr rfl, f64_zero, f64_max, fun s hs hb => ⟨fun hseed => ?_, fun hseed => ?_⟩,
    fun s hs hc => ⟨randomRun s, exec_engine s .random hs, rfl, wordsOf_length _ _, ?_⟩⟩
  · exact exec_host_not_seeded (by decide) hs hb hseed
  · have hcheck : checkOf .random s = .ok s := rfl
    rw [exec_host s .random hs, onCmdWrite_ok hb (.inr hseed) hcheck]
    rfl
  · obtain ⟨-, ⟨hx, -⟩, -⟩ := (config_wf_iff s.cfg).mp hc
    have hm : s.randomInteger < 2 ^ 53 := floatInteger_lt _ _
    have hpattern : f64 s.randomInteger < 2 ^ (32 * 2) := (f64_lt_one hm).trans (by decide)
    intro wa wb m
    have hinteger : s.randomInteger = m := floatInteger_eq wa wb
    rw [randomRun_out, ← hinteger]
    refine ⟨Nat.le_sub_one_of_lt hm, ?_, wordAt_wordsOf _ (by omega), fun w hw => wordAt_wordsOf_of_lt hpattern hw⟩
    rw [wordAt_wordsOf _ (by omega), Nat.mul_zero, Nat.pow_zero, Nat.div_one]

/-- Settles O30: the acceptance by the cases of the check; the engine step puts GetBits(CUR_K) into OUT, and the corner
cases of k are whole words and a remainder. -/
theorem getrandbitsFollowsItsRule : Obligations.GetrandbitsFollowsItsRule := by
  refine ⟨decode_eq_ok_iff.mpr rfl, fun s hs hb => ⟨exec_host_not_seeded (by decide) hs hb, ?_⟩, fun s hs hk => ?_⟩
  · have hkmax : (s.cfg.kmax : Int) = 32 * s.cfg.xwords := by rw [Config.kmax, Config.xw, Nat.cast_mul]; rfl
    rw [← kVal_eq_toInt, ← hkmax]
    refine ⟨fun hseed => ?_, fun hseed => ?_, fun hseed => ?_⟩
    · obtain ⟨hnegative, -, -⟩ := exec_getrandbits_host hs hb hseed
      exact hnegative
    · obtain ⟨-, htoobig, -⟩ := exec_getrandbits_host hs hb hseed
      exact htoobig
    · obtain ⟨-, -, haccepted⟩ := exec_getrandbits_host hs hb hseed
      exact haccepted
  · have hval := wideOf_getrandbitsRun_out hk
    refine ⟨getrandbitsRun s, exec_engine s .getrandbits hs, rfl, wordsOf_length _ _, hval,
      fun h => ?_, fun h => ?_, fun h => ?_, fun h => ?_, fun h => ?_⟩
    · rw [hval, getrandbitsRun_gen, h, getBits_zero]
      exact ⟨rfl, rfl⟩
    · rw [hval, h, getBits_partial s.gen 0 (b := 31) (by decide) (by decide)]
      simp
    · rw [hval, h, getBits_whole s.gen 1]
      simp [drawWords_succ]
    · rw [hval, h, getBits_partial s.gen 1 (b := 1) (by decide) (by decide)]
      simp [drawWords_succ]
    · have hwords := wordsOf_wideOf (drawWords s.cfg.xwords s.gen).1
      rw [drawWords_length] at hwords
      rw [getrandbitsRun_out, h, getBits_whole, hwords]

end Sys2Proof.Machine

namespace Sys2Proof.Machine

/-! ### Two's-complement patterns by their top bit (R9, R96) -/

section TopBit
variable {n v : Nat}

theorem lt_two_pow_pred_of_testBit (hv : v < 2 ^ n) (ht : v.testBit (n - 1) = false) : v < 2 ^ (n - 1) := by
  refine Nat.lt_pow_two_of_testBit v fun i hi => ?_
  obtain rfl | hn : i = n - 1 ∨ n ≤ i := by omega
  · exact ht
  · exact Nat.testBit_lt_two_pow (hv.trans_le (Nat.pow_le_pow_right (by decide) hn))

theorem signedOf_of_testBit_false (hv : v < 2 ^ n) (ht : v.testBit (n - 1) = false) : signedOf n v = v :=
  if_pos (lt_two_pow_pred_of_testBit hv ht)

theorem signedOf_neg_of_testBit (hv : v < 2 ^ n) (ht : v.testBit (n - 1) = true) : signedOf n v < 0 := by
  have hcast : ((2 ^ n : Nat) : Int) = 2 ^ n := by push_cast; rfl
  rw [signedOf, if_neg (Nat.not_lt.mpr (Nat.ge_two_pow_of_testBit ht))]
  omega

theorem natCast_truncTo (n : Nat) (x : Int) : (truncTo n x : Int) = x % 2 ^ n :=
  Int.toNat_of_nonneg (Int.emod_nonneg x (by positivity))

end TopBit

/-! ### One step of the controller (R211) -/

section BoundedStep
variable {s : State} {i : Instr}

theorem runOf_bounded (hi : i = .randbelow ∨ i = .randint) : runOf i = boundedStep := by
  obtain rfl | rfl := hi <;> rfl

/-- `boundedStep` with an accepted candidate; GetBits(0) is 0 and draws nothing, so CUR_K = 0 is no case of its own. -/
theorem boundedStep_accept (h : (getBits s.curK s.gen).1 ≤ s.curD) :
    boundedStep s =
      ((s.putGen (getBits s.curK s.gen).2).putOut (s.boundedResult (getBits s.curK s.gen).1)).complete := by
  obtain ⟨hk, hstep⟩ | ⟨-, -, hstep⟩ | ⟨-, hr, -⟩ := boundedStep_cases (s := s)
  · rw [hstep, hk, getBits_zero, State.boundedResult, Nat.cast_zero, Int.add_zero]
    rfl
  · exact hstep
  · omega

theorem boundedStep_reject (h : s.curD < (getBits s.curK s.gen).1) :
    boundedStep s = s.putGen (getBits s.curK s.gen).2 := by
  obtain ⟨hk, -⟩ | ⟨-, hr, -⟩ | ⟨-, -, hstep⟩ := boundedStep_cases (s := s)
  · rw [hk, getBits_zero] at h
    cases h
  · omega
  · exact hstep

/-- OUT after an accepted candidate, as a value: the residue of CUR_BASE + r (R98). -/
theorem wideOf_boundedResult (r : Nat) :
    (wideOf (wordsOf s.cfg.xwords (s.boundedResult r)) : Int) = (s.curBase + r) % 2 ^ s.cfg.xw := by
  have hlt : s.boundedResult r < 2 ^ (32 * s.cfg.xwords) := truncTo_lt _ _
  rw [wideOf_wordsOf_of_lt hlt, State.boundedResult, natCast_truncTo]

end BoundedStep

/-! ### The loop of R210 and the engine steps that compute it -/

section BoundedRun
variable {s : State} {i : Instr} {fuel d r : Nat} {g g' : GeneratorState}

theorem drawAtMost_no_candidate (h : bitlen d = 0) : drawAtMost fuel d g = some (0, g) := by
  cases fuel <;> exact if_pos h

theorem drawAtMost_out_of_fuel (h : bitlen d ≠ 0) : drawAtMost 0 d g = none := if_neg h

theorem drawAtMost_candidate (h : bitlen d ≠ 0) :
    drawAtMost (fuel + 1) d g =
      if (getBits (bitlen d) g).1 ≤ d then some (getBits (bitlen d) g)
      else drawAtMost fuel d (getBits (bitlen d) g).2 := if_neg h

/-- `DrawAtMost(D)` answers with its first candidate or, after a rejected one, with the answer of the rest of the loop.
For D = 0 the answer is GetBits(0) too. -/
theorem drawAtMost_cases (h : drawAtMost fuel d g = some (r, g')) :
    (getBits (bitlen d) g = (r, g') ∧ r ≤ d) ∨
    ∃ n, fuel = n + 1 ∧ d < (getBits (bitlen d) g).1 ∧ drawAtMost n d (getBits (bitlen d) g).2 = some (r, g') := by
  by_cases hd : bitlen d = 0
  · rw [drawAtMost_no_candidate hd] at h
    cases h
    exact .inl ⟨by rw [hd, getBits_zero], d.zero_le⟩
  · cases fuel with
    | zero => rw [drawAtMost_out_of_fuel hd] at h; cases h
    | succ n =>
      rw [drawAtMost_candidate hd] at h
      split_ifs at h with hr
      · rw [Option.some.injEq] at h
        exact .inl ⟨h, by rwa [h] at hr⟩
      · exact .inr ⟨n, rfl, Nat.lt_of_not_le hr, h⟩

theorem drawAtMost_le (h : drawAtMost fuel d g = some (r, g')) : r ≤ d := by
  induction fuel using Nat.strong_induction_on generalizing g with
  | h fuel ih =>
    obtain ⟨-, hr⟩ | ⟨n, rfl, -, hrest⟩ := drawAtMost_cases h
    · exact hr
    · exact ih n n.lt_succ_self hrest

/-- A bounded command in flight takes its scheduled engine step. -/
theorem step_bounded_scheduled (hi : i = .randbelow ∨ i = .randint) (hb : s.busy = true) (hop : s.curOp = some i)
    (q : List Turn) :
    step { s with schedule := .engine :: q } = .next (boundedStep { s with schedule := q, turn := .engine }) := by
  rw [step_engine_scheduled hb hop, runOf_bounded hi]

/-- R211's closing inference: each candidate of the loop is one engine step, and so is completing without one. -/
theorem core_run_bounded (hi : i = .randbelow ∨ i = .randint) (hb : s.busy = true) (hop : s.curOp = some i)
    (hk : s.curK = bitlen s.curD) (hdraw : drawAtMost fuel s.curD s.gen = some (r, g)) :
    ∃ m, 1 ≤ m ∧ m ≤ fuel + 1 ∧
      Sys2Proof.core.run m { s with schedule := List.replicate m .engine } =
        .next { s with
          schedule := [], turn := .engine, gen := g, out := wordsOf s.cfg.xwords (s.boundedResult r),
          busy := false, curOp := none } := by
  induction fuel using Nat.strong_induction_on generalizing s with
  | h fuel ih =>
    obtain ⟨hbits, hr⟩ | ⟨n, rfl, hr, hrest⟩ := drawAtMost_cases hdraw
    · rw [← hk] at hbits
      have haccept := boundedStep_accept (s := { s with schedule := [], turn := .engine }) (by rwa [hbits])
      refine ⟨1, le_rfl, Nat.le_add_left 1 fuel, ?_⟩
      rw [List.replicate_one, core_run_next (step_bounded_scheduled hi hb hop []), haccept, hbits]
      rfl
    · rw [← hk] at hr hrest
      obtain ⟨m, -, hle, hrun⟩ := ih n n.lt_succ_self
        (s := { s with turn := .engine, gen := (getBits s.curK s.gen).2 }) hb hop hk hrest
      have hreject (q : List Turn) := boundedStep_reject (s := { s with schedule := q, turn := .engine }) hr
      refine ⟨m + 1, Nat.le_add_left 1 m, Nat.succ_le_succ hle, ?_⟩
      rw [List.replicate_succ, core_run_next (step_bounded_scheduled hi hb hop _), hreject]
      exact hrun

/-- From acceptance to completion: left to the engine, an accepted bounded command completes with the answer of
`DrawAtMost(D)` above its latched base. -/
theorem core_run_accepted_bound {base : Int} (hi : i = .randbelow ∨ i = .randint)
    (hdraw : drawAtMost fuel d s.gen = some (r, g)) :
    ∃ m, 1 ≤ m ∧ m ≤ fuel + 1 ∧
      Sys2Proof.core.run m { (s.latchBound d base).accept i with schedule := List.replicate m .engine } =
        .next { (s.latchBound d base).accept i with
          schedule := [], turn := .engine, gen := g, out := wordsOf s.cfg.xwords (truncTo s.cfg.xw (base + r)),
          busy := false, curOp := none } :=
  core_run_bounded (s := (s.latchBound d base).accept i) hi rfl rfl rfl hdraw

end BoundedRun

/-! ### Presenting RANDBELOW and RANDINT to an idle, seeded engine (R213, R214) -/

section BoundedAcceptance
variable {s : State}

theorem exec_randbelow_refused (hs : s.turn = .host) (hb : s.busy = false) (hseed : s.seeded = true)
    (h : s.opaVal ≤ 0) : exec .randbelow s = .next (s.raise .invalidArgument) := by
  have hc : randbelowCheck s = .error .invalidArgument := if_pos h
  rw [exec_host s .randbelow hs, checkOf_randbelow, onCmdWrite_error hb (.inr hseed) hc]

theorem exec_randbelow_accepted (hs : s.turn = .host) (hb : s.busy = false) (hseed : s.seeded = true)
    (h : 0 < s.opaVal) :
    exec .randbelow s = .next ((s.latchBound (s.opaVal - 1).toNat 0).accept .randbelow) := by
  have hc : randbelowCheck s = .ok (s.latchBound (s.opaVal - 1).toNat 0) := if_neg h.not_ge
  rw [exec_host s .randbelow hs, checkOf_randbelow, onCmdWrite_ok hb (.inr hseed) hc]

theorem exec_randint_refused (hs : s.turn = .host) (hb : s.busy = false) (hseed : s.seeded = true)
    (h : s.opbVal < s.opaVal) : exec .randint s = .next (s.raise .invalidArgument) := by
  have hc : randintCheck s = .error .invalidArgument := if_pos h
  rw [exec_host s .randint hs, checkOf_randint, onCmdWrite_error hb (.inr hseed) hc]

theorem exec_randint_accepted (hs : s.turn = .host) (hb : s.busy = false) (hseed : s.seeded = true)
    (h : s.opaVal ≤ s.opbVal) :
    exec .randint s = .next ((s.latchBound (s.opbVal - s.opaVal).toNat s.opaVal).accept .randint) := by
  have hc : randintCheck s = .ok (s.latchBound (s.opbVal - s.opaVal).toNat s.opaVal) := if_neg h.not_gt
  rw [exec_host s .randint hs, checkOf_randint, onCmdWrite_ok hb (.inr hseed) hc]

theorem wideOf_opa_lt (h : s.opa.length = s.cfg.xwords) : wideOf s.opa < 2 ^ s.cfg.xw := by
  rw [Config.xw, ← h]
  exact wideOf_lt s.opa

/-- The patterns RANDBELOW refuses are 0 and those with their top bit set (R213). -/
theorem opaVal_nonpos (h : s.opa.length = s.cfg.xwords)
    (hbad : wideOf s.opa = 0 ∨ (wideOf s.opa).testBit (s.cfg.xw - 1) = true) : s.opaVal ≤ 0 := by
  obtain hzero | htop := hbad
  · have hclear : (wideOf s.opa).testBit (s.cfg.xw - 1) = false := by rw [hzero, Nat.zero_testBit]
    rw [State.opaVal, signedOf_of_testBit_false (wideOf_opa_lt h) hclear, hzero, Nat.cast_zero]
  · exact (signedOf_neg_of_testBit (wideOf_opa_lt h) htop).le

end BoundedAcceptance

/-! ### The statements of 43_bounded_int.md -/

/-- Settles O31: acceptance by the sign of OPA, its run by `core_run_accepted_bound`; a result below n fits OUT. -/
theorem randbelowFollowsItsRule : Obligations.RandbelowFollowsItsRule := by
  refine ⟨decode_eq_ok_iff.mpr rfl, fun s hs hb => ⟨exec_host_not_seeded (by decide) hs hb, fun hseed _ hlen => ?_⟩⟩
  refine ⟨fun hbad => exec_randbelow_refused hs hb hseed (opaVal_nonpos hlen hbad), fun hne htop => ?_⟩
  have hlt := wideOf_opa_lt hlen
  have hval : s.opaVal = wideOf s.opa := signedOf_of_testBit_false hlt htop
  have haccepted := exec_randbelow_accepted hs hb hseed (by omega)
  have hlatched : (s.opaVal - 1).toNat = wideOf s.opa - 1 := by omega
  rw [hlatched] at haccepted
  refine ⟨haccepted, fun fuel r g hdraw => ?_⟩
  have hr := drawAtMost_le hdraw
  have hout : truncTo s.cfg.xw (0 + r) = r := by rw [Int.zero_add, truncTo_natCast (by omega)]
  have hrun := core_run_accepted_bound (base := 0) (.inl rfl) hdraw
  rw [hout] at hrun
  exact ⟨by omega, hrun⟩

/-- Settles O32: acceptance by the order of OPA and OPB, its run by `core_run_accepted_bound`. -/
theorem randintFollowsItsRule : Obligations.RandintFollowsItsRule := by
  refine ⟨decode_eq_ok_iff.mpr rfl, fun s hs hb =>
    ⟨exec_host_not_seeded (by decide) hs hb, exec_randint_refused hs hb, fun hseed hle => ?_⟩⟩
  refine ⟨(s.opbVal - s.opaVal).toNat, by omega, exec_randint_accepted hs hb hseed hle, fun fuel r g hdraw => ?_⟩
  exact ⟨drawAtMost_le hdraw, core_run_accepted_bound (.inr rfl) hdraw⟩

/-- Settles O33: the branches of `boundedStep`; CUR_K = 0 is the accepted candidate GetBits(0) = 0. -/
theorem boundedStepAcceptsOrRejects : Obligations.BoundedStepAcceptsOrRejects := by
  intro s i hs hi
  rw [exec_engine s i hs, runOf_bounded hi]
  refine ⟨fun hk => ?_, fun _ hr => ?_, fun _ hr => ?_⟩
  · have hbits : getBits s.curK s.gen = (0, s.gen) := by rw [hk, getBits_zero]
    have haccept := boundedStep_accept (s := s) (by rw [hbits]; exact Nat.zero_le _)
    have hval := wideOf_boundedResult (s := s) 0
    rw [hbits] at haccept
    rw [Nat.cast_zero, Int.add_zero] at hval
    exact ⟨_, congrArg _ haccept, rfl, wordsOf_length _ _, hval⟩
  · exact ⟨_, congrArg _ (boundedStep_accept hr), rfl, wordsOf_length _ _, wideOf_boundedResult _⟩
  · exact congrArg _ (boundedStep_reject hr)

end Sys2Proof.Machine

namespace Sys2Proof.Machine

/-! ### The codes of a command write (R240 to R244) -/

section Codes
variable {s t : State} {i : Instr} {e : ErrCode} {v : Word}

/-- The code a command's own checks end with (R243): the error they raise, or OK. -/
def checkCode (i : Instr) (s : State) : ErrCode :=
  match checkOf i s with
  | .error e => e
  | .ok _    => .ok

theorem checkCode_error (h : checkOf i s = .error e) : checkCode i s = e := by rw [checkCode, h]

theorem checkCode_ok (h : checkOf i s = .ok t) : checkCode i s = .ok := by rw [checkCode, h]

theorem checkCode_seed :
    checkCode .seed s = if s.keyLen.toNat = 0 ∨ s.cfg.keymax < s.keyLen.toNat then .operandRange else .ok := by
  rw [← keyCount_eq]
  obtain ⟨hbad, hc⟩ | ⟨hlo, hhi, hc⟩ := seedCheck_cases (s := s)
  · rw [checkCode_error (i := .seed) hc, if_pos hbad]
  · rw [checkCode_ok (i := .seed) hc, if_neg (by omega)]

theorem checkCode_random : checkCode .random s = .ok := rfl

theorem checkCode_getrandbits :
    checkCode .getrandbits s =
      if s.argK.toInt < 0 then .invalidArgument
      else if (s.cfg.xw : Int) < s.argK.toInt then .operandRange else .ok := by
  rw [← kVal_eq_toInt, ← Config.kmax]
  obtain ⟨hneg, hc⟩ | ⟨hbig, hc⟩ | ⟨hlo, hhi, hc⟩ := getrandbitsCheck_cases (s := s)
  · rw [checkCode_error (i := .getrandbits) hc, if_pos hneg]
  · rw [checkCode_error (i := .getrandbits) hc, if_neg (by omega), if_pos hbig]
  · rw [checkCode_ok (i := .getrandbits) hc, if_neg hlo.not_gt, if_neg hhi.not_gt]

theorem checkCode_randbelow : checkCode .randbelow s = if s.opaVal ≤ 0 then .invalidArgument else .ok := by
  obtain ⟨hbad, hc⟩ | ⟨hpos, hc⟩ := randbelowCheck_cases (s := s)
  · rw [checkCode_error (i := .randbelow) hc, if_pos hbad]
  · rw [checkCode_ok (i := .randbelow) hc, if_neg hpos.not_ge]

theorem checkCode_randint : checkCode .randint s = if s.opbVal < s.opaVal then .invalidArgument else .ok := by
  obtain ⟨hbad, hc⟩ | ⟨hle, hc⟩ := randintCheck_cases (s := s)
  · rw [checkCode_error (i := .randint) hc, if_pos hbad]
  · rw [checkCode_ok (i := .randint) hc, if_neg hle.not_gt]

/-- The checks raise the two codes of R243 and no other. -/
theorem checkOf_error_code (h : checkOf i s = .error e) : e = .invalidArgument ∨ e = .operandRange := by
  rw [← checkCode_error h]
  cases i with
  | seed =>
    obtain ⟨-, hc⟩ | ⟨-, -, hc⟩ := seedCheck_cases (s := s)
    · exact .inr (checkCode_error hc)
    · rw [checkOf_seed, hc] at h; cases h
  | random => cases h
  | getrandbits =>
    obtain ⟨-, hc⟩ | ⟨-, hc⟩ | ⟨-, -, hc⟩ := getrandbitsCheck_cases (s := s)
    · exact .inl (checkCode_error hc)
    · exact .inr (checkCode_error hc)
    · rw [checkOf_getrandbits, hc] at h; cases h
  | randbelow =>
    obtain ⟨-, hc⟩ | ⟨-, hc⟩ := randbelowCheck_cases (s := s)
    · exact .inl (checkCode_error hc)
    · rw [checkOf_randbelow, hc] at h; cases h
  | randint =>
    obtain ⟨-, hc⟩ | ⟨-, hc⟩ := randintCheck_cases (s := s)
    · exact .inl (checkCode_error hc)
    · rw [checkOf_randint, hc] at h; cases h

/-- What presenting a command to an idle engine can do: NOT_SEEDED, a code of R243, or acceptance. -/
theorem onCmdWrite_idle_cases (hb : s.busy = false) :
    (i ≠ .seed ∧ s.onCmdWrite i (checkOf i) = s.raise .notSeeded) ∨
    (∃ e, (e = .invalidArgument ∨ e = .operandRange) ∧ s.onCmdWrite i (checkOf i) = s.raise e) ∨
    ∃ t, s.onCmdWrite i (checkOf i) = State.accept t i := by
  obtain ⟨hb', -⟩ | ⟨-, hi, -, h⟩ | ⟨-, -, e, hc, h⟩ | ⟨-, -, t, -, h⟩ :=
    onCmdWrite_cases (s := s) (i := i) (check := checkOf i)
  · rw [hb] at hb'; cases hb'
  · exact .inl ⟨hi, h⟩
  · exact .inr (.inl ⟨e, checkOf_error_code hc, h⟩)
  · exact .inr (.inr ⟨t, h⟩)

/-- The code an idle engine reports for a command: SEEDED is looked at before the operands (R240). -/
theorem onCmdWrite_err (hb : s.busy = false) :
    (s.onCmdWrite i (checkOf i)).err = if i ≠ .seed ∧ s.seeded = false then .notSeeded else checkCode i s := by
  obtain ⟨hb', -⟩ | ⟨-, hi, hseed, h⟩ | ⟨-, hseed, e, hc, h⟩ | ⟨-, hseed, t, hc, h⟩ :=
    onCmdWrite_cases (s := s) (i := i) (check := checkOf i)
  · rw [hb] at hb'; cases hb'
  · rw [h, State.raise_err, if_pos ⟨hi, hseed⟩]
  · rw [h, State.raise_err, checkCode_error hc, if_neg (by simpa [or_iff_not_imp_left] using hseed)]
  · rw [h, State.accept_err, checkCode_ok hc, if_neg (by simpa [or_iff_not_imp_left] using hseed)]

/-- A write to CMD that leaves the engine idle was refused: it raised an error and did nothing else (R244). -/
theorem writeReg_cmd_refused (hs : s.turn = .host) (hb : s.busy = false)
    (hw : writeReg (some .cmd) v s = .next t) (ht : t.busy = false) : ∃ e, e ≠ .ok ∧ t = s.raise e := by
  obtain ⟨i, -, h⟩ | ⟨-, -, h⟩ := writeReg_cmd_host (v := v) hs <;> rw [h] at hw <;> cases hw
  · obtain ⟨-, hr⟩ | ⟨e, he, hr⟩ | ⟨u, ha⟩ := onCmdWrite_idle_cases (i := i) hb
    · exact ⟨.notSeeded, by decide, hr⟩
    · exact ⟨e, by obtain rfl | rfl := he <;> decide, hr⟩
    · rw [ha, State.accept_busy] at ht; cases ht
  · exact ⟨.illegalCommand, by decide, onIllegalWrite_idle hb⟩

theorem readReg_raise_operand {r : Reg} (hr : r.isOperand = true) :
    (readReg (some r) (s.raise e)).1 = (readReg (some r) s).1 := by
  cases r with
  | argK | keyLen | key j | opa w | opb w => rfl
  | cmd | status | info | out w => cases hr

/-- The command words are 1 to 5 (R91). -/
theorem forall_ne_commandWord_iff : (∀ i, v ≠ commandWord i) ↔ v.toNat = 0 ∨ 5 < v.toNat := by
  constructor
  · intro h
    have h1 := h .seed
    have h2 := h .random
    have h3 := h .getrandbits
    have h4 := h .randbelow
    have h5 := h .randint
    simp only [commandWord] at h1 h2 h3 h4 h5
    bv_omega
  · rintro h i rfl
    revert h
    cases i <;> decide

end Codes

/-! ### The statements of 60_exceptions.md -/

/-- Settles O8: NOT_SEEDED comes before the operands are looked at, and SEED's outcomes leave it out. -/
theorem productionBeforeSeedingIsRefused : Obligations.ProductionBeforeSeedingIsRefused := by
  refine ⟨rfl, fun s hs hb => ⟨fun hseed i hi => exec_host_not_seeded hi hs hb hseed, _, exec_host s .seed hs, ?_⟩⟩
  obtain ⟨hi, -⟩ | ⟨e, he, h⟩ | ⟨t, h⟩ := onCmdWrite_idle_cases (i := .seed) hb
  · exact absurd rfl hi
  · rw [h, State.raise_err]
    obtain rfl | rfl := he <;> decide
  · rw [h, State.accept_err]
    decide

/-- Settles O9: the write is a `raise`, so the read-back is that of a state with another ERR. -/
theorem refusedWriteChangesOnlyTheCode : Obligations.RefusedWriteChangesOnlyTheCode := by
  intro s t v hs hb hw ht
  obtain ⟨e, he, rfl⟩ := writeReg_cmd_refused hs hb hw ht
  exact ⟨he, rfl, statusWord_err _, fun r hr => readReg_raise_operand hr⟩

/-- Settles O10: a word outside 1 to 5 is illegal; on a command word the chain is SEEDED's test and then the code of the
command's own checks. -/
theorem reportedCodeIsTheFirstThatApplies : Obligations.ReportedCodeIsTheFirstThatApplies := by
  refine ⟨rfl, rfl, rfl, fun e => by cases e <;> decide, fun s v hs hb => ?_⟩
  obtain ⟨i, hd, hw⟩ | ⟨e, hd, hw⟩ := writeReg_cmd_host (v := v) hs
  · obtain rfl := decode_eq_ok_iff.mp hd
    have hlegal : ¬((commandWord i).toNat = 0 ∨ 5 < (commandWord i).toNat) :=
      fun h => forall_ne_commandWord_iff.mpr h i rfl
    refine ⟨_, hw, ?_⟩
    rw [onCmdWrite_err hb, if_neg hlegal]
    cases i with
    | seed => simp [commandWord, checkCode_seed]
    | random => simp [commandWord, checkCode_random]
    | getrandbits => simp [commandWord, checkCode_getrandbits]
    | randbelow => simp [commandWord, checkCode_randbelow]
    | randint => simp [commandWord, checkCode_randint]
  · have hillegal : v.toNat = 0 ∨ 5 < v.toNat := forall_ne_commandWord_iff.mp (decode_illegal_iff.mp ⟨e, hd⟩)
    exact ⟨_, hw, by rw [onIllegalWrite_idle hb, State.raise_err, if_pos hillegal]⟩

end Sys2Proof.Machine

namespace Sys2Proof.Machine

/-! ### What the host's transactions leave unchanged -/

section HostFrames
variable {s t : State} {i : Instr} {r : Option Reg} {v : Word}

/-- A command write touches the in-flight record, BUSY and the two outcome fields of STATUS at most (R240, R244, R67). -/
theorem onCmdWrite_frame :
    s.onCmdWrite i (checkOf i) =
      let t := s.onCmdWrite i (checkOf i)
      { s with busy := t.busy, curOp := t.curOp, curK := t.curK, curD := t.curD, curBase := t.curBase,
               ovr := t.ovr, err := t.err } := by
  obtain ⟨-, h⟩ | ⟨-, -, -, h⟩ | ⟨-, -, e, -, h⟩ | ⟨-, -, t, hc, h⟩ :=
    onCmdWrite_cases (s := s) (i := i) (check := checkOf i)
  · rw [h]; rfl
  · rw [h]; rfl
  · rw [h]; rfl
  · rw [h, checkOf_frame hc]; rfl

theorem onIllegalWrite_frame :
    s.onIllegalWrite = { s with ovr := s.onIllegalWrite.ovr, err := s.onIllegalWrite.err } := by
  unfold State.onIllegalWrite
  split <;> rfl

/-- No host write reaches the generator state, SEEDED, OUT or the configuration (R63, R240). -/
theorem writeReg_keeps (hs : s.turn = .host) (hw : writeReg r v s = .next t) :
    t.gen = s.gen ∧ t.seeded = s.seeded ∧ t.out = s.out ∧ t.cfg = s.cfg := by
  by_cases hr : r = some .cmd
  · subst hr
    obtain ⟨i, -, h⟩ | ⟨e, -, h⟩ := writeReg_cmd_host (v := v) hs <;> rw [h] at hw <;> cases hw
    · rw [onCmdWrite_frame]; exact ⟨rfl, rfl, rfl, rfl⟩
    · rw [onIllegalWrite_frame]; exact ⟨rfl, rfl, rfl, rfl⟩
  · rw [writeReg_plain hr] at hw; cases hw
    obtain ⟨hcfg, hgen, hseeded, -, -, -, -, -, -, hout, -⟩ := writePlain_frame (r := r) (v := v) (s := s)
    exact ⟨hgen, hseeded, hout, hcfg⟩

/-- While BUSY = 1 a host write sets or clears OVR at most (R67, R35). -/
theorem writeReg_busy (hs : s.turn = .host) (hb : s.busy = true) (hw : writeReg r v s = .next t) :
    t = { s with ovr := t.ovr } := by
  by_cases hr : r = some .cmd
  · subst hr
    rw [writeReg_of_busy hs hb (.inl rfl)] at hw; cases hw
    rfl
  · rw [writeReg_plain hr] at hw; cases hw
    obtain h | h | h := writePlain_busy (r := r) (v := v) hb
    · rw [h]
    · rw [h]; rfl
    · rw [h]

/-- What a host turn does to the engine: nothing, or the one write it performs, on the engine as it is. -/
theorem hostTurn_engine_cases (h : hostTurn s = .next t) :
    (∃ p rs n, t = { s with program := p, results := rs, freeDraws := n }) ∨
    ∃ p r v, writeReg r v { s with program := p } = .next t := by
  obtain ⟨-, rfl⟩ | ⟨a, v, rest, r, -, -, hw⟩ | ⟨a, rest, r, -, -, rfl⟩ | ⟨rest, -, rfl⟩ := hostTurn_cases h
  · exact .inl ⟨_, _, _, rfl⟩
  · exact .inr ⟨rest, r, v, hw⟩
  · rw [readReg_frame]; exact .inl ⟨_, _, _, rfl⟩
  · left; split <;> exact ⟨_, _, _, rfl⟩

theorem hostTurn_keeps (hs : s.turn = .host) (h : hostTurn s = .next t) :
    t.gen = s.gen ∧ t.seeded = s.seeded ∧ t.out = s.out ∧ t.cfg = s.cfg := by
  obtain ⟨p, rs, n, rfl⟩ | ⟨p, r, v, hw⟩ := hostTurn_engine_cases h
  · exact ⟨rfl, rfl, rfl, rfl⟩
  · exact writeReg_keeps (s := { s with program := p }) hs hw

/-- No host transaction ends a command in flight (R67). -/
theorem hostTurn_keeps_busy (hs : s.turn = .host) (hb : s.busy = true) (h : hostTurn s = .next t) :
    t.busy = true := by
  obtain ⟨p, rs, n, rfl⟩ | ⟨p, r, v, hw⟩ := hostTurn_engine_cases h
  · exact hb
  · rw [writeReg_busy (s := { s with program := p }) hs hb hw]; exact hb

end HostFrames

/-! ### What an engine step leaves behind (R211, R246) -/

section EngineResults
variable {s t : State} {i : Instr}

/-- An engine step completes the command or, for a bounded command with a rejected candidate, changes the generator
state only (R211, R246). -/
theorem runOf_cases (i : Instr) (s : State) :
    runOf i s = { s with
      gen := (runOf i s).gen, seeded := (runOf i s).seeded, out := (runOf i s).out, busy := false, curOp := none } ∨
    runOf i s = s.putGen (getBits s.curK s.gen).2 := by
  have hbounded : boundedStep s = { s with
      gen := (boundedStep s).gen, seeded := (boundedStep s).seeded, out := (boundedStep s).out,
      busy := false, curOp := none } ∨ boundedStep s = s.putGen (getBits s.curK s.gen).2 := by
    rcases Nat.lt_or_ge s.curD (getBits s.curK s.gen).1 with hr | hr
    · exact .inr (boundedStep_reject hr)
    · rw [boundedStep_accept hr]; exact .inl rfl
  cases i with
  | seed | random | getrandbits => exact .inl rfl
  | randbelow | randint => exact hbounded

theorem seedRun_gen (s : State) : (seedRun s).gen = initByArray s.keyWords s.gen := rfl

theorem seedRun_out (s : State) : (seedRun s).out = s.out := by rw [seedRun, State.complete_out]

/-- IDX stays in [0, 624] whatever command steps (R32). -/
theorem runOf_idx_le (h : s.gen.idx ≤ 624) : (runOf i s).gen.idx ≤ 624 := by
  have hbounded : (boundedStep s).gen.idx ≤ 624 := by
    obtain ⟨-, hstep⟩ | ⟨-, -, hstep⟩ | ⟨-, -, hstep⟩ := boundedStep_cases (s := s) <;> rw [hstep]
    · exact h
    · exact getBits_idx_le h
    · exact getBits_idx_le h
  cases i with
  | seed => exact (initByArray_idx s.gen s.keyWords).le
  | random => exact nextWord_idx_le (nextWord_idx_le h)
  | getrandbits => exact getBits_idx_le h
  | randbelow | randint => exact hbounded

theorem runOf_out_length (h : s.out.length = s.cfg.xwords) : (runOf i s).out.length = s.cfg.xwords := by
  have hbounded : (boundedStep s).out.length = s.cfg.xwords := by
    obtain ⟨-, hstep⟩ | ⟨-, -, hstep⟩ | ⟨-, -, hstep⟩ := boundedStep_cases (s := s) <;> rw [hstep]
    · exact wordsOf_length _ _
    · exact wordsOf_length _ _
    · exact h
  cases i with
  | seed => rw [runOf_seed, seedRun_out]; exact h
  | random | getrandbits => exact wordsOf_length _ _
  | randbelow | randint => exact hbounded

/-- No command clears SEEDED (R33). -/
theorem runOf_seeded (h : s.seeded = true) : (runOf i s).seeded = true := by
  have hbounded : (boundedStep s).seeded = true := by rw [boundedStep_frame]; exact h
  cases i with
  | seed => rfl
  | random | getrandbits => exact h
  | randbelow | randint => exact hbounded

theorem engineTurn_seeded (hs : s.turn = .engine) (hseed : s.seeded = true) (h : engineTurn s = .next t) :
    t.seeded = true := by
  obtain ⟨-, rfl⟩ | ⟨-, i, -, hx⟩ := engineTurn_cases h
  · exact hseed
  · rw [exec_engine s i hs] at hx; cases hx
    exact runOf_seeded hseed

end EngineResults

/-! ### The invariant: an idle engine has no more to keep than its sizes and ranges -/

section Invariant
variable {s t : State} {i : Instr}

theorem config_xw_pos {c : Config} (h : c.wf = true) : 0 < c.xw := by
  obtain ⟨-, ⟨hx, -⟩, -⟩ := (config_wf_iff c).mp h
  rw [Config.xw]; omega

/-- With no command in flight the record and operand clauses of the invariant are void. -/
theorem inv_of_idle (hb : s.busy = false) (hop : s.curOp = none) (hcfg : s.cfg.wf = true) (hidx : s.gen.idx ≤ 624)
    (hsizes : s.sizesOk) (hranges : s.rangesOk) : s.Inv := by
  refine ⟨hcfg, hidx, hsizes, ⟨by rw [hb, hop]; rfl, by simp [hb], fun _ => .inl hop⟩, hranges, ?_⟩
  simp [State.operandsOk, hop]

theorem State.Inv.curOp_eq_none (h : s.Inv) (hb : s.busy = false) : s.curOp = none := by
  obtain ⟨-, -, -, ⟨hrec, -, -⟩, -, -⟩ := h
  simpa [hb] using hrec

theorem State.Inv.curOp_eq_some (h : s.Inv) (hb : s.busy = true) : ∃ i, s.curOp = some i := by
  obtain ⟨-, -, -, ⟨hrec, -, -⟩, -, -⟩ := h
  exact Option.isSome_iff_exists.mp (hrec ▸ hb)

theorem State.Inv.busy_of_curOp (h : s.Inv) (hop : s.curOp = some i) : s.busy = true := by
  obtain ⟨-, -, -, ⟨hrec, -, -⟩, -, -⟩ := h
  rw [hrec, hop]; rfl

/-- The values of OPA and OPB are in the two's-complement range of the wide width (R96). -/
theorem State.sizesOk.opaVal_bounds (h : s.sizesOk) (hc : s.cfg.wf = true) :
    -(2 ^ (s.cfg.xw - 1) : Int) ≤ s.opaVal ∧ s.opaVal < (2 ^ (s.cfg.xw - 1) : Int) := by
  obtain ⟨-, hopa, -, -⟩ := h
  exact signedOf_bounds (config_xw_pos hc) (wideOf_opa_lt hopa)

theorem State.sizesOk.opbVal_bounds (h : s.sizesOk) (hc : s.cfg.wf = true) :
    -(2 ^ (s.cfg.xw - 1) : Int) ≤ s.opbVal ∧ s.opbVal < (2 ^ (s.cfg.xw - 1) : Int) := by
  obtain ⟨-, -, hopb, -⟩ := h
  have hlt : wideOf s.opb < 2 ^ s.cfg.xw := by
    rw [Config.xw, ← hopb]; exact wideOf_lt s.opb
  exact signedOf_bounds (config_xw_pos hc) hlt

/-- A latched bound whose least and greatest result fit the signed result width is in the ranges of R34. -/
theorem rangesOk_latchBound {d : Nat} {base : Int} (hc : s.cfg.wf = true) (hlo : -(2 ^ (s.cfg.xw - 1) : Int) ≤ base)
    (hhi : base + (d : Int) < (2 ^ (s.cfg.xw - 1) : Int)) : (s.latchBound d base).rangesOk := by
  have hpow := two_pow_pred (config_xw_pos hc)
  have hcast : ((2 ^ s.cfg.xw : Nat) : Int) = 2 ^ s.cfg.xw := by push_cast; rfl
  have hd : d < 2 ^ s.cfg.xw := by omega
  exact ⟨bitlen_le_iff.mpr hd, hd, hlo, (by omega : base < (2 ^ (s.cfg.xw - 1) : Int))⟩

/-- What the acceptance checks establish for the record they write (R190, R213, R214, R216). -/
theorem checkOf_ok_establishes (h : s.Inv) (hc : checkOf i s = .ok t) :
    t.rangesOk ∧ (t.accept i).operandsOk := by
  obtain ⟨hcfg, -, hsizes, -, hranges, -⟩ := h
  cases i with
  | seed =>
    obtain ⟨-, hk⟩ | ⟨hlo, hhi, hk⟩ := seedCheck_cases (s := s) <;> rw [checkOf_seed, hk] at hc <;> cases hc
    exact ⟨hranges, fun _ => ⟨hlo, hhi⟩, by simp, by simp⟩
  | random =>
    rw [checkOf_random, randomCheck] at hc; cases hc
    exact ⟨hranges, by simp, by simp, by simp⟩
  | getrandbits =>
    obtain ⟨-, hk⟩ | ⟨-, hk⟩ | ⟨hlo, hhi, hk⟩ := getrandbitsCheck_cases (s := s) <;>
      rw [checkOf_getrandbits, hk] at hc <;> cases hc
    obtain ⟨-, hrest⟩ := hranges
    have hcurK : s.kVal.toNat ≤ s.cfg.xw := by rw [Config.kmax] at hhi; omega
    exact ⟨⟨hcurK, hrest⟩, by simp, by simp, by simp⟩
  | randbelow =>
    obtain ⟨-, hk⟩ | ⟨hpos, hk⟩ := randbelowCheck_cases (s := s) <;>
      rw [checkOf_randbelow, hk] at hc <;> cases hc
    obtain ⟨-, hopa⟩ := hsizes.opaVal_bounds hcfg
    have hfits : (0 : Int) + ((s.opaVal - 1).toNat : Int) < 2 ^ (s.cfg.xw - 1) := by omega
    exact ⟨rangesOk_latchBound hcfg (by simp) hfits, by simp, fun _ => ⟨⟨rfl, hfits⟩, rfl⟩, by simp⟩
  | randint =>
    obtain ⟨-, hk⟩ | ⟨hle, hk⟩ := randintCheck_cases (s := s) <;>
      rw [checkOf_randint, hk] at hc <;> cases hc
    obtain ⟨hopa, -⟩ := hsizes.opaVal_bounds hcfg
    obtain ⟨-, hopb⟩ := hsizes.opbVal_bounds hcfg
    have hfits : s.opaVal + ((s.opbVal - s.opaVal).toNat : Int) < 2 ^ (s.cfg.xw - 1) := by omega
    exact ⟨rangesOk_latchBound hcfg hopa hfits, by simp, by simp, fun _ => ⟨rfl, hfits⟩⟩

theorem inv_accept (h : s.Inv) (hseed : i = .seed ∨ s.seeded = true) (hc : checkOf i s = .ok t) :
    (t.accept i).Inv := by
  obtain ⟨hranges, hoperands⟩ := checkOf_ok_establishes h hc
  obtain ⟨hcfg, hidx, hsizes, -, -, -⟩ := h
  rw [checkOf_frame hc] at hranges hoperands ⊢
  refine ⟨hcfg, hidx, hsizes, ⟨rfl, fun _ => rfl, fun hs => .inr ?_⟩, hranges, hoperands⟩
  obtain rfl | hseeded := hseed
  · rfl
  · exact absurd (hseeded.symm.trans hs) (by decide)

/-- ERR is under the invariant only while a command is in flight, so an idle engine's refusal keeps it. -/
theorem inv_raise {e : ErrCode} (h : s.Inv) (hb : s.busy = false) : (s.raise e).Inv := by
  have hop := h.curOp_eq_none hb
  obtain ⟨hcfg, hidx, hsizes, -, hranges, -⟩ := h
  exact inv_of_idle hb hop hcfg hidx hsizes hranges

theorem inv_onCmdWrite (h : s.Inv) : (s.onCmdWrite i (checkOf i)).Inv := by
  obtain ⟨-, hw⟩ | ⟨hb, -, -, hw⟩ | ⟨hb, -, e, -, hw⟩ | ⟨-, hseed, t, hc, hw⟩ :=
    onCmdWrite_cases (s := s) (i := i) (check := checkOf i) <;> rw [hw]
  · exact h
  · exact inv_raise h hb
  · exact inv_raise h hb
  · exact inv_accept h hseed hc

theorem inv_onIllegalWrite (h : s.Inv) : s.onIllegalWrite.Inv := by
  cases hb : s.busy with
  | true => rw [onIllegalWrite_busy hb]; exact h
  | false => rw [onIllegalWrite_idle hb]; exact inv_raise h hb

/-- A plain write while BUSY = 1 leaves KEY_LEN alone, and while BUSY = 0 no command depends on it. -/
theorem inv_writePlain {r : Option Reg} {v : Word} (h : s.Inv) : (writePlain r v s).Inv := by
  cases hb : s.busy with
  | true =>
    obtain hw | hw | hw := writePlain_busy (r := r) (v := v) hb <;> rw [hw] <;> exact h
  | false =>
    have hop := h.curOp_eq_none hb
    obtain ⟨hcfg, hidx, ⟨hkey, hopa, hopb, hout⟩, -, hranges, -⟩ := h
    obtain ⟨ecfg, egen, -, ebusy, eop, eK, eD, eBase, -, eout, -⟩ := writePlain_frame (r := r) (v := v) (s := s)
    obtain ⟨ekey, eopa, eopb⟩ := writePlain_lengths (r := r) (v := v) (s := s)
    refine inv_of_idle (ebusy.trans hb) (eop.trans hop) (ecfg ▸ hcfg) (egen ▸ hidx) ?_ ?_
    · rw [State.sizesOk, ecfg, ekey, eopa, eopb, eout]
      exact ⟨hkey, hopa, hopb, hout⟩
    · rw [State.rangesOk, ecfg, eK, eD, eBase]
      exact hranges

theorem inv_writeReg {r : Option Reg} {v : Word} (hs : s.turn = .host) (h : s.Inv)
    (hw : writeReg r v s = .next t) : t.Inv := by
  by_cases hr : r = some .cmd
  · subst hr
    obtain ⟨i, -, hx⟩ | ⟨e, -, hx⟩ := writeReg_cmd_host (v := v) hs <;> rw [hx] at hw <;> cases hw
    · exact inv_onCmdWrite h
    · exact inv_onIllegalWrite h
  · rw [writeReg_plain hr] at hw; cases hw
    exact inv_writePlain h

theorem inv_hostTurn (hs : s.turn = .host) (h : s.Inv) (ht : hostTurn s = .next t) : t.Inv := by
  obtain ⟨p, rs, n, rfl⟩ | ⟨p, r, v, hw⟩ := hostTurn_engine_cases ht
  · exact h
  · exact inv_writeReg (s := { s with program := p }) hs h hw

theorem inv_runOf (h : s.Inv) : (runOf i s).Inv := by
  obtain ⟨hcfg, hidx, ⟨hkey, hopa, hopb, hout⟩, hrec, hranges, hoperands⟩ := h
  have hidx' := runOf_idx_le (i := i) hidx
  have hout' := runOf_out_length (i := i) hout
  obtain hdone | hreject := runOf_cases i s
  · rw [hdone]
    exact inv_of_idle rfl rfl hcfg hidx' ⟨hkey, hopa, hopb, hout'⟩ hranges
  · rw [hreject] at hidx' hout' ⊢
    exact ⟨hcfg, hidx', ⟨hkey, hopa, hopb, hout'⟩, hrec, hranges, hoperands⟩

theorem inv_engineTurn (hs : s.turn = .engine) (h : s.Inv) (ht : engineTurn s = .next t) : t.Inv := by
  obtain ⟨-, rfl⟩ | ⟨-, i, -, hx⟩ := engineTurn_cases ht
  · exact h
  · rw [exec_engine s i hs] at hx; cases hx
    exact inv_runOf h

/-- Under the invariant BUSY = 1 comes with a command, so the engine's turn answers (R282). -/
theorem engineTurn_answers (h : s.Inv) : ∃ t, engineTurn s = .next t := by
  cases hb : s.busy with
  | true =>
    obtain ⟨i, hi⟩ := h.curOp_eq_some hb
    exact ⟨_, by simp only [engineTurn, hb, if_true, hi]; exact exec_eq s i⟩
  | false => exact ⟨s, by simp [engineTurn, hb]⟩

/-- The invariant right after reset (R50). -/
theorem inv_resetWith {c : Config} (hc : c.wf = true) : (State.resetWith c).Inv := by
  refine inv_of_idle rfl rfl hc (Nat.zero_le 624) ?_ ?_
  · exact ⟨List.length_replicate, List.length_replicate, List.length_replicate, List.length_replicate⟩
  · refine ⟨Nat.zero_le _, Nat.two_pow_pos _, ?_, ?_⟩
    · exact Int.neg_nonpos_of_nonneg (by positivity)
    · exact Int.pow_pos (by decide)

end Invariant

/-! ### The statements about the whole machine -/

/-- Settles O56: by whose turn it is; the host's writes, the engine's steps and the reset event each keep it. -/
theorem everyStepKeepsTheInvariant : Obligations.EveryStepKeepsTheInvariant := by
  intro s t h hstep
  obtain ⟨q, ⟨-, ht⟩ | ⟨-, ht⟩ | ⟨-, rfl⟩⟩ := step_cases hstep
  · exact inv_hostTurn (s := { s with schedule := q, turn := .host }) rfl h ht
  · exact inv_engineTurn (s := { s with schedule := q, turn := .engine }) rfl h ht
  · obtain ⟨hcfg, -⟩ := h
    exact inv_resetWith hcfg

/-- Settles O55: State.reset is the reset state of a legal configuration. -/
theorem resetStateSatisfiesTheInvariant : Obligations.ResetStateSatisfiesTheInvariant :=
  ⟨inv_resetWith (c := Config.default) (by decide), fun _ => inv_resetWith⟩

/-- Settles O57: whatever the transaction is, it leaves these fields alone. -/
theorem hostTurnsKeepTheGeneratorAndOut : Obligations.HostTurnsKeepTheGeneratorAndOut := by
  intro s t q h hn
  rw [step_host hn] at h
  exact hostTurn_keeps (s := { s with schedule := q, turn := .host }) rfl h

/-- Settles O58: an engine step is a change of MT, IDX, SEEDED, OUT, BUSY and CUR_OP. -/
theorem engineStepsKeepTheHostRegisters : Obligations.EngineStepsKeepTheHostRegisters := by
  intro s t q h hn
  rw [step_engine hn] at h
  rw [engineTurn_frame (s := { s with schedule := q, turn := .engine }) rfl h]
  exact ⟨rfl, rfl, rfl, rfl, rfl, rfl, rfl, rfl, rfl, rfl, rfl⟩

/-- Settles O59: the engine's turn answers and leaves ERR alone; of the three kinds of step the host's keeps BUSY and
SEEDED, the engine's keeps SEEDED. -/
theorem commandsEndOnlyByCompletionOrReset : Obligations.CommandsEndOnlyByCompletionOrReset := by
  refine ⟨fun s q h hn => ?_, fun s t h => ?_⟩
  · obtain ⟨t, ht⟩ := engineTurn_answers (s := { s with schedule := q, turn := .engine }) h
    refine ⟨t, (step_engine hn).trans ht, ?_⟩
    rw [engineTurn_frame rfl ht]
  · obtain ⟨q, ⟨hn, ht⟩ | ⟨hn, ht⟩ | ⟨hn, rfl⟩⟩ := step_cases h
    · refine ⟨fun hb hb' => ?_, fun hseed hseed' => ?_⟩
      · rw [hostTurn_keeps_busy (s := { s with schedule := q, turn := .host }) rfl hb ht] at hb'; cases hb'
      · obtain ⟨-, hkeep, -, -⟩ := hostTurn_keeps rfl ht
        exact absurd (hseed.symm.trans (hkeep.symm.trans hseed')) (by decide)
    · refine ⟨fun _ _ => .inl ⟨q, hn⟩, fun hseed hseed' => ?_⟩
      rw [engineTurn_seeded (s := { s with schedule := q, turn := .engine }) rfl hseed ht] at hseed'; cases hseed'
    · exact ⟨fun _ _ => .inr ⟨q, hn⟩, fun _ _ => ⟨q, hn⟩⟩

/-- Settles O60: the list changes at the n-th place only, to what that engine's own step answers. -/
theorem enginesShareNoState : Obligations.EnginesShareNoState := by
  intro es us n h
  unfold stepAt at h
  split at h
  · next hn =>
    cases h
    exact ⟨rfl, fun _ _ => rfl, fun s hs => by rw [hn] at hs; cases hs⟩
  · next s hn =>
    split at h <;> cases h
    next t ht =>
    obtain ⟨hlt, -⟩ := List.getElem?_eq_some_iff.mp hn
    refine ⟨List.length_set, fun m hm => List.getElem?_set_ne hm.symm, fun s' hs' => ?_⟩
    obtain rfl : s = s' := Option.some.inj (hn.symm.trans hs')
    exact ⟨t, ht, List.getElem?_set_self hlt⟩

end Sys2Proof.Machine

namespace Sys2Proof.Machine

/-! ### The counted loop cut in two, and two loops with the same body (R11) -/

section Loops
variable {α : Type} {m n : Nat} {a : α} {f f' : Nat → α → α}

theorem forRange_add : forRange (m + n) f a = forRange n (fun k => f (m + k)) (forRange m f a) := by
  induction n with
  | zero => rfl
  | succ n ih => rw [← Nat.add_assoc, forRange_succ, forRange_succ, ih]

theorem forRange_congr (h : ∀ k b, k < n → f k b = f' k b) : forRange n f a = forRange n f' a := by
  induction n with
  | zero => rfl
  | succ n ih => rw [forRange_succ, forRange_succ, ih fun k b hk => h k b (by omega), h n _ n.lt_succ_self]

end Loops

/-! ### The slot index of the mixing passes (R123, R124) -/

section SlotIndex
variable {m : MixState} {key : List Word} {f : MixState → MixState}

/-- The slot index runs through 1 to 623 and starts over. -/
theorem WritesSlot.i_eq {m' : MixState} {v : Word} (h : WritesSlot m m' v) (h2 : m.i ≤ 623) :
    m'.i = 1 + m.i % 623 := by
  obtain ⟨-, hnext, hwrap, -⟩ := h
  rcases h2.lt_or_eq with hlt | heq
  · obtain ⟨hi, -⟩ := hnext hlt
    omega
  · obtain ⟨hi, -⟩ := hwrap heq
    omega

/-- Where n steps of a pass leave the slot index. -/
theorem iterate_i_eq (hf : ∀ m : MixState, 1 ≤ m.i → m.i ≤ 623 → (f m).i = 1 + m.i % 623)
    (h1 : 1 ≤ m.i) (h2 : m.i ≤ 623) (n : Nat) : (f^[n] m).i = 1 + (m.i - 1 + n) % 623 := by
  induction n with
  | zero => rw [Function.iterate_zero_apply]; omega
  | succ n ih => rw [Function.iterate_succ_apply', hf _ (by omega) (by omega), ih]; omega

theorem mixKey_i (key : List Word) (mt : Vector Word 624) :
    (mixKey key mt).i = 1 + max 624 key.length % 623 := by
  rw [mixKey_eq_iterate, iterate_i_eq (fun m h1 h2 => (mixKeyStep_writesSlot h1 h2).i_eq h2) le_rfl (by simp)]
  simp

/-- 623 steps are one whole round of the slot index. -/
theorem mixPlain_i (h1 : 1 ≤ m.i) (h2 : m.i ≤ 623) : (mixPlain m).i = m.i := by
  rw [mixPlain_eq_iterate, iterate_i_eq (fun m h1 h2 => (mixPlainStep_writesSlot h1 h2).i_eq h2) h1 h2]
  omega

end SlotIndex

/-! ### The twist without the modulus (R153) -/

section ThreeLoops
variable {i k : Nat} (mt : Vector Word 624)

theorem twistStep_low (hi : i < 227) : twistStep i mt =
    writeMT mt i (twistWord (readMT mt i) (readMT mt (i + 1)) (readMT mt (i + 397))) := by
  rw [twistStep, Nat.mod_eq_of_lt (by omega), Nat.mod_eq_of_lt (by omega)]

theorem twistStep_mid (hk : k < 396) : twistStep (227 + k) mt =
    writeMT mt (227 + k)
      (twistWord (readMT mt (227 + k)) (readMT mt (227 + k + 1)) (readMT mt (227 + k - 227))) := by
  have hpartner : (227 + k + 397) % 624 = 227 + k - 227 := by omega
  rw [twistStep, Nat.mod_eq_of_lt (by omega), hpartner]

/-- The three loops are the one pass, cut after slots 226 and 622. -/
theorem twist_eq_twistThreeLoops : twist mt = twistThreeLoops mt := by
  have hlow : forRange 227 twistStep mt = _ := forRange_congr fun _ m => twistStep_low m
  have hmid : forRange 396 (fun k => twistStep (227 + k)) (forRange 227 twistStep mt) = _ :=
    forRange_congr fun _ m => twistStep_mid m
  calc twist mt = twistStep 623 (forRange (227 + 396) twistStep mt) := rfl
    _ = twistThreeLoops mt := by rw [forRange_add, hmid, hlow]; rfl

end ThreeLoops

/-! ### The words drawn since a seeding (R154, R155) -/

section Drawn
variable {g : GeneratorState}

/-- The generator state n words after IDX = 624. -/
def drawnState (mt : Vector Word 624) (n : Nat) : GeneratorState :=
  { mt := twist^[(n + 623) / 624] mt, idx := if n = 0 then 624 else (n - 1) % 624 + 1 }

theorem drawnState_idx_eq_iff (mt : Vector Word 624) (n : Nat) : (drawnState mt n).idx = 624 ↔ n % 624 = 0 := by
  simp only [drawnState]
  split <;> omega

/-- The next word twists where n is a multiple of 624, and only there. -/
theorem refill_drawnState (mt : Vector Word 624) (n : Nat) :
    refill (drawnState mt n) = { mt := twist^[(n + 1 + 623) / 624] mt, idx := n % 624 } := by
  by_cases hn : n % 624 = 0
  · have hcount : (n + 1 + 623) / 624 = (n + 623) / 624 + 1 := by omega
    rw [refill_of_eq ((drawnState_idx_eq_iff mt n).mpr hn), hn, hcount, Function.iterate_succ_apply']
    rfl
  · have hidx : (drawnState mt n).idx = n % 624 := by
      simp only [drawnState]
      split <;> omega
    have hcount : (n + 623) / 624 = (n + 1 + 623) / 624 := by omega
    rw [refill_of_lt (by omega), ← hidx, ← hcount]
    rfl

theorem nextWord_drawnState (mt : Vector Word 624) (n : Nat) :
    (nextWord (drawnState mt n)).2 = drawnState mt (n + 1) := by
  rw [nextWord_eq, refill_drawnState]
  rfl

theorem drawWords_eq_drawnState (h : g.idx = 624) (n : Nat) : (drawWords n g).2 = drawnState g.mt n := by
  induction n with
  | zero =>
    obtain ⟨mt, idx⟩ := g
    obtain rfl : idx = 624 := h
    rfl
  | succ n ih => rw [drawWords_succ_last, ih, nextWord_drawnState]

theorem getBits_gen (k : Nat) (g : GeneratorState) : (getBits k g).2 = (drawWords (ceilDiv k 32) g).2 := by
  rw [getBits_eq]
  refine forRange_invariant (fun w (acc : Nat × GeneratorState) => acc.2 = (drawWords w g).2) rfl ?_
  intro w acc _ h
  rw [joinWord, h, drawWords_succ_last]

end Drawn

/-! ### The binary64 pattern as a value (R182) -/

section DoubleValue
variable {m p : Nat}

/-- The leading bit p of m, moved to bit 52. -/
theorem scaled_leading_bit (hlo : 2 ^ p ≤ m) (hhi : m < 2 ^ (p + 1)) (hp : p ≤ 52) :
    2 ^ 52 ≤ m * 2 ^ (52 - p) ∧ m * 2 ^ (52 - p) < 2 ^ 53 := by
  have hpos := Nat.two_pow_pos (52 - p)
  have hlow : 2 ^ p * 2 ^ (52 - p) = 2 ^ 52 := by rw [← Nat.pow_add, Nat.add_sub_cancel' hp]
  have hhigh : 2 ^ (p + 1) * 2 ^ (52 - p) = 2 ^ 53 := by rw [← Nat.pow_add]; congr 1; omega
  exact ⟨hlow ▸ Nat.mul_le_mul_right _ hlo, hhigh ▸ Nat.mul_lt_mul_of_pos_right hhi hpos⟩

/-- The exponent field and the fraction field of F64 of a number with leading bit p. -/
theorem f64_fields (hlo : 2 ^ p ≤ m) (hhi : m < 2 ^ (p + 1)) (hp : p ≤ 52) :
    f64 m / 2 ^ 52 = 970 + p ∧ 2 ^ 52 + f64 m % 2 ^ 52 = m * 2 ^ (52 - p) := by
  obtain ⟨hlow, hhigh⟩ := scaled_leading_bit hlo hhi hp
  rw [f64_of_leading_bit hlo hhi]
  omega

end DoubleValue

/-! ### The key words of a seed (R120, R121) -/

section SeedWords
variable {fuel v : Nat} {ws : List Word}

theorem keyChunks_zero (fuel : Nat) : keyChunks fuel 0 = [] := by
  cases fuel <;> rfl

theorem keyChunks_succ (h : v ≠ 0) :
    keyChunks (fuel + 1) v = BitVec.ofNat 32 v :: keyChunks fuel (v / 2 ^ 32) := if_neg h

/-- One round of the loop takes 32 bits off the value, so the fuel left is enough for the rest. -/
theorem div_word_lt_two_pow (h : v < 2 ^ (fuel + 1)) : v / 2 ^ 32 < 2 ^ fuel := by
  have hpos := Nat.two_pow_pos fuel
  rw [Nat.div_lt_iff_lt_mul (by decide)]
  rw [Nat.pow_succ] at h
  omega

theorem wideOf_keyChunks (h : v < 2 ^ fuel) : wideOf (keyChunks fuel v) = v := by
  induction fuel generalizing v with
  | zero =>
    obtain rfl : v = 0 := by simpa using h
    rfl
  | succ fuel ih =>
    rcases Nat.eq_zero_or_pos v with rfl | hpos
    · rfl
    · rw [keyChunks_succ hpos.ne', wideOf_cons, ih (div_word_lt_two_pow h), BitVec.toNat_ofNat, Nat.mod_add_div]

/-- The loop stops at v = 0, so the last word it gives is not 0. -/
theorem getLast?_keyChunks (h : v < 2 ^ fuel) : (keyChunks fuel v).getLast? ≠ some 0#32 := by
  induction fuel generalizing v with
  | zero => simp [keyChunks]
  | succ fuel ih =>
    rcases Nat.eq_zero_or_pos v with rfl | hpos
    · simp [keyChunks]
    · rw [keyChunks_succ hpos.ne']
      rcases Nat.lt_or_ge v (2 ^ 32) with hlt | hge
      · rw [Nat.div_eq_of_lt hlt, keyChunks_zero, List.getLast?_singleton]
        intro hzero
        have hv := congrArg BitVec.toNat (Option.some.inj hzero)
        rw [BitVec.toNat_ofNat, Nat.mod_eq_of_lt hlt] at hv
        exact hpos.ne' hv
      · have hrest := wideOf_keyChunks (div_word_lt_two_pow h)
        have hquot : 0 < v / 2 ^ 32 := Nat.div_pos hge (by decide)
        have hne : keyChunks fuel (v / 2 ^ 32) ≠ [] := by
          intro hnil
          rw [hnil, wideOf_nil] at hrest
          omega
        rw [List.getLast?_cons_of_ne_nil hne]
        exact ih (div_word_lt_two_pow h)

/-- A multi-word value with a last word that is not 0 reaches into that word. -/
theorem two_pow_le_wideOf {x : Word} (h : ws.getLast? = some x) (hx : x ≠ 0#32) :
    2 ^ (32 * (ws.length - 1)) ≤ wideOf ws := by
  obtain ⟨low, rfl⟩ := List.getLast?_eq_some_iff.mp h
  have hpos : 0 < x.toNat := Nat.pos_of_ne_zero fun h0 => hx (BitVec.eq_of_toNat_eq h0)
  rw [List.length_append, List.length_singleton, Nat.add_sub_cancel, wideOf_append, wideOf_cons, wideOf_nil]
  exact (Nat.le_mul_of_pos_right _ (by omega)).trans (Nat.le_add_left _ _)

theorem seedWords_zero : seedWords 0 = [0#32] := rfl

theorem seedWords_of_ne_zero {x : Int} (h : x ≠ 0) :
    seedWords x = keyChunks (bitlen x.natAbs) x.natAbs := if_neg (Int.natAbs_ne_zero.mpr h)

theorem wideOf_seedWords (x : Int) : wideOf (seedWords x) = x.natAbs := by
  by_cases hx : x = 0
  · subst hx; rfl
  · rw [seedWords_of_ne_zero hx, wideOf_keyChunks (lt_two_pow_bitlen _)]

theorem getLast?_seedWords {x : Int} (h : x ≠ 0) : (seedWords x).getLast? ≠ some 0#32 := by
  rw [seedWords_of_ne_zero h]
  exact getLast?_keyChunks (lt_two_pow_bitlen _)

end SeedWords

/-! ### The statements of 40_seeding.md to 42_float_and_bits.md -/

/-- Settles O14: 624 and L steps from 1, then one whole round. -/
theorem mixingPassesEndAtTheirIndices : Obligations.MixingPassesEndAtTheirIndices := by
  intro key mt _
  have hi := mixKey_i key mt
  exact ⟨hi, mixPlain_i (by omega) (by omega)⟩

/-- Settles O18: the key words are the same list, and the key schedule forgets the old state. -/
theorem seedReadsOnlyItsKeyWords : Obligations.SeedReadsOnlyItsKeyWords := by
  intro s s' t t' hs hs' hlen hkey ht ht'
  rw [exec_engine _ .seed hs] at ht
  rw [exec_engine _ .seed hs'] at ht'
  cases ht; cases ht'
  have hwords : s.keyWords = s'.keyWords := by
    rw [State.keyWords, State.keyWords, keyCount_eq, keyCount_eq, ← hlen]
    exact List.map_congr_left fun j hj => hkey j (List.mem_range.mp hj)
  rw [runOf_seed, seedRun_gen, seedRun_gen, hwords]
  exact initByArray_eq _ _ _

/-- Settles O21: no index of the first two loops reaches 624, and the third has the one slot left. -/
theorem twistEqualsTheThreeLoopForm : Obligations.TwistEqualsTheThreeLoopForm := twist_eq_twistThreeLoops

/-- Settles O23, by induction on the words drawn. -/
theorem drawnWordsTwistEvery624 : Obligations.DrawnWordsTwistEvery624 :=
  fun n _ h => drawWords_eq_drawnState h n

/-- Settles O24: the whole words and the top bits of the last one together have k bits. -/
theorem getBitsStaysBelowTwoPowK : Obligations.GetBitsStaysBelowTwoPowK := fun k g => getBits_lt g k

/-- Settles O25: the two bounds say that n is ceil(k / 32). -/
theorem getBitsDrawsCeilWords : Obligations.GetBitsDrawsCeilWords := by
  intro k n g h1 h2
  have hn : n = ceilDiv k 32 := by unfold ceilDiv; omega
  rw [hn, getBits_gen]

/-- Settles O28: the fields of the pattern, for the leading bit p = bitlen(M) - 1. -/
theorem doublePatternIsExact : Obligations.DoublePatternIsExact := by
  refine ⟨f64_zero, fun m hpos hlt => ?_⟩
  obtain ⟨p, hlen⟩ := Nat.exists_eq_succ_of_ne_zero (mt bitlen_eq_zero_iff.mp hpos.ne')
  obtain ⟨hlo, hhi⟩ := bitlen_eq_succ_iff.mp hlen
  have hp : p ≤ 52 := by
    have := bitlen_le_iff.mpr hlt
    omega
  obtain ⟨hexponent, hfraction⟩ := f64_fields hlo hhi hp
  rw [hexponent, hfraction, Nat.add_sub_cancel_left, Nat.mul_assoc, ← Nat.pow_add, Nat.sub_add_cancel hp]
  exact ⟨by omega, by omega, rfl⟩

/-- Settles O29: OUT holds at most the pattern of the drawn M, which is below 2^53. -/
theorem randomStaysBelowOne : Obligations.RandomStaysBelowOne := by
  refine fun s hs _ => ⟨randomRun s, exec_engine s .random hs, ?_⟩
  rw [randomRun_out, wideOf_wordsOf]
  exact (Nat.mod_le _ _).trans_lt (f64_lt_one (floatInteger_lt _ _))

/-- Settles O52: the words spell |x|, and a last word that is not 0 makes their number the least one. -/
theorem seedWordsSpellTheSeed : Obligations.SeedWordsSpellTheSeed := by
  refine fun x => ⟨wideOf_seedWords x, by rw [seedWords, seedWords, Int.natAbs_neg],
    fun h => by rw [h, seedWords_zero], fun hx => ?_⟩
  have hlast := getLast?_seedWords hx
  have hval := wideOf_seedWords x
  refine ⟨?_, ?_, hlast⟩
  · cases hw : (seedWords x).getLast? with
    | none =>
      rw [List.getLast?_eq_none_iff.mp hw, wideOf_nil] at hval
      exact absurd hval.symm (Int.natAbs_ne_zero.mpr hx)
    | some w =>
      have hreach := two_pow_le_wideOf hw fun h0 => hlast (h0 ▸ hw)
      rw [hval] at hreach
      exact Nat.lt_of_not_le fun hle => (bitlen_le_iff.mp hle).not_ge hreach
  · rw [bitlen_le_iff, ← hval]
    exact wideOf_lt _

end Sys2Proof.Machine

namespace Sys2Proof.Machine

/-! ### The controller's runs and results (R210 to R216) -/

section BoundedRuns
variable {s t : State} {i : Instr} {m n d : Nat} {g : GeneratorState}

/-- Where the loop of R210 is out of fuel, its first candidate was rejected and the rest of the loop is out of fuel. -/
theorem drawAtMost_eq_none (h : drawAtMost (n + 1) d g = none) :
    d < (getBits (bitlen d) g).1 ∧ drawAtMost n d (getBits (bitlen d) g).2 = none := by
  by_cases hd : bitlen d = 0
  · rw [drawAtMost_no_candidate hd] at h; cases h
  · rw [drawAtMost_candidate hd] at h
    split_ifs at h with hr
    exact ⟨Nat.lt_of_not_le hr, h⟩

/-- Rejected candidates, each one engine step, change nothing but the generator state (R211, R215). -/
theorem core_run_rejected (hi : i = .randbelow ∨ i = .randint) (hb : s.busy = true) (hop : s.curOp = some i)
    (hk : s.curK = bitlen s.curD) (hdraw : drawAtMost n s.curD s.gen = none) :
    Sys2Proof.core.run n { s with schedule := List.replicate n .engine, turn := .engine } =
      .next { s with
        schedule := [], turn := .engine, gen := (drawWords (n * ceilDiv s.curK 32) s.gen).2 } := by
  induction n generalizing s with
  | zero => rw [Nat.zero_mul]; rfl
  | succ n ih =>
    obtain ⟨hr, hrest⟩ := drawAtMost_eq_none hdraw
    rw [← hk] at hr hrest
    have hrun := ih (s := { s with gen := (getBits s.curK s.gen).2 }) hb hop hk hrest
    have hreject := boundedStep_reject (s := { s with schedule := List.replicate n .engine, turn := .engine }) hr
    have hstep := step_bounded_scheduled (s := { s with turn := .engine }) hi hb hop (List.replicate n .engine)
    rw [List.replicate_succ, core_run_next (hstep.trans (congrArg _ hreject)), Nat.succ_mul, Nat.add_comm,
      drawWords_add, ← getBits_gen]
    exact hrun

/-- With 2^m values to choose from, every candidate of m bits is accepted. -/
theorem getBits_le_two_pow_pred (m : Nat) (g : GeneratorState) : (getBits m g).1 ≤ 2 ^ m - 1 :=
  Nat.le_sub_one_of_lt (getBits_lt g m)

/-- A bounded command that has completed left an accepted candidate, between 0 and CUR_D, above CUR_BASE in OUT. -/
theorem boundedStep_completed (hb : s.busy = true) (h : (boundedStep s).busy = false) :
    ∃ r, r ≤ s.curD ∧ wideOf (boundedStep s).out = s.boundedResult r := by
  rcases Nat.lt_or_ge s.curD (getBits s.curK s.gen).1 with hr | hr
  · rw [boundedStep_reject hr, State.putGen_busy, hb] at h; cases h
  · refine ⟨_, hr, ?_⟩
    rw [boundedStep_accept hr]
    exact wideOf_wordsOf_of_lt (truncTo_lt _ _)

/-- Under the invariant of a bounded command in flight its result, read by signed_XW, is CUR_BASE + r (R216). -/
theorem signedOf_boundedResult {r : Nat} (hc : s.cfg.wf = true) (hranges : s.rangesOk) (hbound : s.boundOk)
    (hr : r ≤ s.curD) : signedOf s.cfg.xw (s.boundedResult r) = s.curBase + r := by
  obtain ⟨-, -, hlo, -⟩ := hranges
  obtain ⟨-, hhi⟩ := hbound
  exact signedOf_truncTo (config_xw_pos hc) (by omega) (by omega)

theorem boundedStep_result_bounds (h : s.Inv) (hb : s.busy = true) (hbound : s.boundOk)
    (hdone : (boundedStep s).busy = false) :
    s.curBase ≤ signedOf s.cfg.xw (wideOf (boundedStep s).out) ∧
    signedOf s.cfg.xw (wideOf (boundedStep s).out) ≤ s.curBase + (s.curD : Int) := by
  obtain ⟨hcfg, -, -, -, hranges, -⟩ := h
  obtain ⟨r, hr, hout⟩ := boundedStep_completed hb hdone
  rw [hout, signedOf_boundedResult hcfg hranges hbound hr]
  omega

end BoundedRuns

/-! ### Registers at their offsets (R60) -/

section NamedRegisters
variable {c : Config} {r : Reg}

/-- The offset of an existing register is inside the window. -/
theorem offsetOf_lt (hc : c.wf = true) (hr : r.existsIn c = true) : offsetOf r < 0x5000 := by
  obtain ⟨⟨-, hk⟩, ⟨-, hx⟩, -⟩ := (config_wf_iff c).mp hc
  cases r <;> simp only [Reg.existsIn, offsetOf, decide_eq_true_eq] at hr ⊢ <;> omega

/-- From 0x1000 on the map holds the arrays only, each in its own 4 KiB. -/
theorem decodeOffset_array {off : Nat} (hlo : 0x1000 ≤ off) (ha : off % 4 = 0) :
    decodeOffset c off =
      if 0x1000 ≤ off ∧ off < 0x1000 + 4 * c.keymax then some (.key ((off - 0x1000) / 4))
      else if 0x2000 ≤ off ∧ off < 0x2000 + 4 * c.xwords then some (.opa ((off - 0x2000) / 4))
      else if 0x3000 ≤ off ∧ off < 0x3000 + 4 * c.xwords then some (.opb ((off - 0x3000) / 4))
      else if 0x4000 ≤ off ∧ off < 0x4000 + 4 * c.xwords then some (.out ((off - 0x4000) / 4))
      else none := by
  rw [decodeOffset, if_neg (by omega), if_neg (by omega), if_neg (by omega), if_neg (by omega), if_neg (by omega),
    if_neg (by omega)]

/-- The map of R60 finds every register the configuration has at its offset. -/
theorem decodeOffset_offsetOf (hc : c.wf = true) (hr : r.existsIn c = true) :
    decodeOffset c (offsetOf r) = some r := by
  obtain ⟨⟨-, hk⟩, ⟨-, hx⟩, -⟩ := (config_wf_iff c).mp hc
  have hslot (b n : Nat) : (b + 4 * n - b) / 4 = n := by omega
  cases r with
  | cmd | status | argK | keyLen | info => rfl
  | key j =>
    have hj : j < c.keymax := of_decide_eq_true hr
    rw [offsetOf, decodeOffset_array (by omega) (by omega), if_pos (by omega), hslot]
  | opa w =>
    have hw : w < c.xwords := of_decide_eq_true hr
    rw [offsetOf, decodeOffset_array (by omega) (by omega), if_neg (by omega), if_pos (by omega), hslot]
  | opb w =>
    have hw : w < c.xwords := of_decide_eq_true hr
    rw [offsetOf, decodeOffset_array (by omega) (by omega), if_neg (by omega), if_neg (by omega),
      if_pos (by omega), hslot]
  | out w =>
    have hw : w < c.xwords := of_decide_eq_true hr
    rw [offsetOf, decodeOffset_array (by omega) (by omega), if_neg (by omega), if_neg (by omega),
      if_neg (by omega), if_pos (by omega), hslot]

theorem locate_of_existsIn (hc : c.wf = true) (hr : r.existsIn c = true) :
    locate c (accessOf c r) = .ok (some r) := by
  rw [locate_accessOf hc ((offsetOf_lt hc hr).trans (by decide)), decodeOffset_offsetOf hc hr]

end NamedRegisters

/-! ### Reads, and reads after a write to an idle engine (R63) -/

section ReadBack
variable {s : State} {r r' : Reg} {v : Word}

/-- A read does not depend on what the host has yet to do, nor on whose turn it is. -/
theorem readReg_host_fields (r : Option Reg) (q : List Turn) (a : Agent) (p : List HostOp) :
    readReg r { s with schedule := q, turn := a, program := p } =
      ((readReg r s).1, { (readReg r s).2 with schedule := q, turn := a, program := p }) := by
  obtain _ | r := r
  · rfl
  · cases r with
    | out w => simp only [readReg]; split <;> rfl
    | _ => rfl

/-- What a read of OUT[w] returns, by BUSY (R68). -/
theorem readReg_out_fst (w : Nat) (s : State) : (readReg (some (.out w)) s).1 =
    if s.busy then Config.freeOut s.cfg.base w s.freeDraws else wordAt s.out w := by
  rw [readReg]
  split <;> rfl

/-- An operand register the configuration has takes the whole word (R63, R65). -/
theorem readReg_writePlain_self (hsizes : s.sizesOk) (hb : s.busy = false) (hop : r.isOperand = true)
    (hr : r.existsIn s.cfg = true) : (readReg (some r) (writePlain (some r) v s)).1 = v := by
  obtain ⟨hkey, hopa, hopb, -⟩ := hsizes
  cases r with
  | argK | keyLen => rw [writePlain, writeOperand_idle hb]; rfl
  | key j =>
    rw [writePlain, writeOperand_idle hb]
    exact wordAt_set_self v (hkey ▸ of_decide_eq_true hr)
  | opa w =>
    rw [writePlain, writeOperand_idle hb]
    exact wordAt_set_self v (hopa ▸ of_decide_eq_true hr)
  | opb w =>
    rw [writePlain, writeOperand_idle hb]
    exact wordAt_set_self v (hopb ▸ of_decide_eq_true hr)
  | cmd | status | info | out w => cases hop

/-- Every other register reads as before. -/
theorem readReg_writePlain_ne (hb : s.busy = false) (hop : r.isOperand = true) (hne : r' ≠ r) :
    (readReg (some r') (writePlain (some r) v s)).1 = (readReg (some r') s).1 := by
  cases r with
  | argK =>
    rw [writePlain, writeOperand_idle hb]
    cases r' with
    | argK => exact absurd rfl hne
    | out w => rw [readReg_out_fst, readReg_out_fst]
    | _ => rfl
  | keyLen =>
    rw [writePlain, writeOperand_idle hb]
    cases r' with
    | keyLen => exact absurd rfl hne
    | out w => rw [readReg_out_fst, readReg_out_fst]
    | _ => rfl
  | key j =>
    rw [writePlain, writeOperand_idle hb]
    cases r' with
    | key j' => exact wordAt_set_ne v fun h => hne (h ▸ rfl)
    | out w => rw [readReg_out_fst, readReg_out_fst]
    | _ => rfl
  | opa w =>
    rw [writePlain, writeOperand_idle hb]
    cases r' with
    | opa w' => exact wordAt_set_ne v fun h => hne (h ▸ rfl)
    | out w => rw [readReg_out_fst, readReg_out_fst]
    | _ => rfl
  | opb w =>
    rw [writePlain, writeOperand_idle hb]
    cases r' with
    | opb w' => exact wordAt_set_ne v fun h => hne (h ▸ rfl)
    | out w => rw [readReg_out_fst, readReg_out_fst]
    | _ => rfl
  | cmd | status | info | out w => cases hop

end ReadBack

end Sys2Proof.Machine

namespace Sys2Proof.Machine

/-! ### Steps of the two agents, by what they perform -/

section AgentSteps
variable {s t : State} {q : List Turn} {a : Access} {v : Word} {rest : List HostOp} {r : Option Reg} {i : Instr}

theorem step_write (hn : s.nextTurn = (.host, q)) (hp : s.program = .write a v :: rest)
    (hl : locate s.cfg a = .ok r) :
    step s = writeReg r v { s with schedule := q, turn := .host, program := rest } := by
  rw [step_host hn]
  exact hostTurn_write (s := { s with schedule := q, turn := .host }) hp hl

theorem step_read (hn : s.nextTurn = (.host, q)) (hp : s.program = .read a :: rest)
    (hl : locate s.cfg a = .ok r) :
    step s = .next { (readReg r s).2 with
      schedule := q, turn := .host, program := rest, results := s.results ++ [(readReg r s).1] } := by
  have hresults : (readReg r s).2.results = s.results := by rw [readReg_frame]
  rw [step_host hn, hostTurn_read (s := { s with schedule := q, turn := .host }) hp hl]
  simp only [readReg_host_fields, State.record, hresults]

/-- A table word that decodes fits its `nbits` bits and is a command word. -/
theorem decode_of_decodeTableWord {nbits w : Nat} {i : Instr} (h : decodeTableWord nbits w = some i) :
    decode (BitVec.ofNat 32 (w % 2 ^ nbits)) = .ok i := by
  unfold decodeTableWord at h
  split at h
  · next hfits =>
    obtain ⟨-, hw⟩ := hfits
    rw [Nat.mod_eq_of_lt hw]
    split at h <;> cases h
    assumption
  · cases h

/-- The step that presents a command (R240). -/
theorem step_present (hn : s.nextTurn = (.host, q)) (hp : s.program = .write a v :: rest)
    (hl : locate s.cfg a = .ok (some .cmd)) (hd : decode v = .ok i) :
    step s = exec i { s with schedule := q, turn := .host, program := rest } := by
  rw [step_write hn hp hl, writeReg_cmd_ok hd]

/-- An access the interface gives no meaning to stops the machine with the refusal `locate` names. -/
theorem step_refused {e : Refusal} (hn : s.nextTurn = (.host, q))
    (hp : s.program = .write a v :: rest ∨ s.program = .read a :: rest) (hl : locate s.cfg a = .error e) :
    step s = .refused e := by
  rw [step_host hn]
  obtain hp | hp := hp <;> simp only [hostTurn, hp, hl]

theorem busyBit_statusWord (s : State) : busyBit s.statusWord = s.busy := statusWord_getLsbD s 0

/-- A POLL records the word of STATUS and is left behind where that word has BUSY = 0 (R101). -/
theorem hostTurn_poll (hp : s.program = .poll :: rest) :
    hostTurn s = .next
      (if s.busy then s.record s.statusWord else { s.record s.statusWord with program := rest }) := by
  rw [← busyBit_statusWord s]
  simp only [hostTurn, hp]
  rfl

/-- The engine step of the command in flight (R282). -/
theorem step_in_flight (hn : s.nextTurn = (.engine, q)) (hb : s.busy = true) (hop : s.curOp = some i) :
    step s = exec i { s with schedule := q, turn := .engine } := by
  rw [step_engine hn]
  simp only [engineTurn, hb, hop, if_true]

end AgentSteps

/-! ### From an accepted command to its completion (R240, R282) -/

section AcceptedCommands
variable {s t : State} {i : Instr}

/-- ERR = OK after a command write to an idle engine says that it was accepted (R244). -/
theorem onCmdWrite_of_err_ok (hb : s.busy = false) (he : (s.onCmdWrite i (checkOf i)).err = .ok) :
    ∃ t, checkOf i s = .ok t ∧ s.onCmdWrite i (checkOf i) = t.accept i := by
  obtain ⟨hb', -⟩ | ⟨-, -, -, hw⟩ | ⟨-, -, e, hc, hw⟩ | ⟨-, -, t, hc, hw⟩ :=
    onCmdWrite_cases (s := s) (i := i) (check := checkOf i)
  · rw [hb] at hb'; cases hb'
  · rw [hw, State.raise_err] at he; cases he
  · rw [hw, State.raise_err] at he
    obtain rfl | rfl := checkOf_error_code hc <;> cases he
  · exact ⟨t, hc, hw⟩

/-- An accepted command leaves BUSY = 1, itself in CUR_OP, and the host and the schedule as they were. -/
theorem exec_host_accepted (hs : s.turn = .host) (hb : s.busy = false) (h : exec i s = .next t) (he : t.err = .ok) :
    t.busy = true ∧ t.curOp = some i ∧ t.program = s.program ∧ t.schedule = s.schedule := by
  rw [exec_host s i hs] at h; cases h
  obtain ⟨t, hc, hw⟩ := onCmdWrite_of_err_ok hb he
  rw [hw, checkOf_frame hc]
  exact ⟨rfl, rfl, rfl, rfl⟩

/-- SEED, RANDOM and GETRANDBITS complete in one engine step (R282). -/
theorem runOf_completes (hi : i = .seed ∨ i = .random ∨ i = .getrandbits) :
    (runOf i s).busy = false ∧ (runOf i s).curOp = none := by
  obtain rfl | rfl | rfl := hi <;> exact ⟨rfl, rfl⟩

end AcceptedCommands

/-! ### The statements of 43_bounded_int.md -/

/-- Settles O34: bitlen is the least width, and a width that is at most k exactly where m is at most k is m. -/
theorem randbelowLatchesTheLeastWidth : Obligations.RandbelowLatchesTheLeastWidth := by
  intro s hs hb hseed hpos
  have hleast : ∀ k : Nat, bitlen (s.opaVal - 1).toNat ≤ k ↔ s.opaVal ≤ 2 ^ k := fun k => by
    have hcast : ((2 ^ k : Nat) : Int) = 2 ^ k := by push_cast; rfl
    rw [bitlen_le_iff]
    omega
  refine ⟨_, exec_randbelow_accepted hs hb hseed hpos, rfl, hleast, fun m hm => ?_⟩
  refine eq_of_forall_ge_iff fun k => (hleast k).trans ?_
  rw [hm]
  exact pow_le_pow_iff_right₀ (by decide)

/-- Settles O35: GetBits(m) is below 2^m, so at most CUR_D. -/
theorem powerOfTwoBoundAcceptsTheFirstCandidate : Obligations.PowerOfTwoBoundAcceptsTheFirstCandidate := by
  rintro s i m hs hi rfl hd
  have hr : (getBits s.curK s.gen).1 ≤ s.curD := hd ▸ getBits_le_two_pow_pred s.curK s.gen
  rw [exec_engine s i hs, runOf_bounded hi, boundedStep_accept hr]
  exact ⟨_, rfl, rfl, rfl, wideOf_boundedResult _⟩

/-- Settles O36: acceptance bounded CUR_BASE + CUR_D (the invariant), and an accepted candidate is at most CUR_D. -/
theorem boundedResultsLieInTheirRanges : Obligations.BoundedResultsLieInTheirRanges := by
  intro s t h hs ht
  have hoperands := h
  obtain ⟨-, -, -, -, -, -, hbelow, hint⟩ := hoperands
  refine ⟨fun hop hx => ?_, fun hop hx => ?_⟩
  · rw [exec_engine s .randbelow hs] at hx; cases hx
    obtain ⟨hbound, hbase⟩ := hbelow hop
    simpa [hbase] using boundedStep_result_bounds h (h.busy_of_curOp hop) hbound ht
  · rw [exec_engine s .randint hs] at hx; cases hx
    exact boundedStep_result_bounds h (h.busy_of_curOp hop) (hint hop) ht

/-- Settles O37: each candidate of the loop is one engine step. -/
theorem boundedStepsComputeDrawAtMost : Obligations.BoundedStepsComputeDrawAtMost :=
  fun _ _ _ _ _ hi hb hop hk hdraw => core_run_bounded hi hb hop hk hdraw

/-- Settles O38, by induction on the rejected candidates. -/
theorem boundedCommandNeverGivesUp : Obligations.BoundedCommandNeverGivesUp := by
  intro n s i hi hs hb hop hk hdraw
  have hrun := core_run_rejected hi hb hop hk hdraw
  rwa [← hs] at hrun

/-! ### The statements of 20_memory.md -/

/-- Settles O40: what the map yields exists at that offset, and it finds what exists. -/
theorem registerMapIsExact : Obligations.RegisterMapIsExact := by
  refine fun c off r hc _ => ⟨decodeOffset_some, ?_⟩
  rintro ⟨hr, rfl⟩
  exact decodeOffset_offsetOf hc hr

/-- Settles O41: the access is inside the interface, and the map finds the register. -/
theorem namedAccessReachesItsRegister : Obligations.NamedAccessReachesItsRegister :=
  fun _ _ => locate_of_existsIn

/-- Settles O45: the register written, then every other one. -/
theorem idleWriteIsReadBack : Obligations.IdleWriteIsReadBack := by
  intro s r v hsizes hb hop hr
  obtain ⟨-, hgen, -, hbusy, -⟩ := writePlain_frame (r := some r) (v := v) (s := s)
  exact ⟨_, writeReg_operand hop, readReg_writePlain_self hsizes hb hop hr, hbusy.trans hb, hgen,
    fun r' hne => readReg_writePlain_ne hb hop hne⟩

/-- Settles O46: a read of OUT is one of two cases by BUSY, every other read leaves the state as it is. -/
theorem readsHaveNoSideEffect : Obligations.ReadsHaveNoSideEffect := by
  refine fun s r => ⟨readReg_frame r, fun w hr hb => ?_, fun w hr hb => ?_, fun hr => ?_⟩
  · rw [hr, readReg_out_fst, if_pos hb]
  · simp [hr, readReg, hb]
  · obtain h | ⟨-, ⟨w, hw⟩, -⟩ := readReg_state (r := r) (s := s)
    · exact h
    · exact absurd hw (hr w)

/-- Settles O49: the first two tests of `locate`. -/
theorem accessesOutsideTheInterfaceAreRefused : Obligations.AccessesOutsideTheInterfaceAreRefused := by
  refine fun s q => ⟨step_secondHost, fun a v rest hn hp => ⟨fun hw => ?_, fun hw ha => ?_⟩⟩
  · exact step_refused hn hp (by simp [locate, Access.isWord, hw])
  · exact step_refused hn hp (by simp [locate, Access.isWord, Access.isAligned, hw, ha])

/-- Settles O50: an array read returns the word of its slot, and OUT is free only while BUSY = 1. -/
theorem idleReadsReturnTheRegisters : Obligations.IdleReadsReturnTheRegisters := by
  intro s hb
  have hslot {ws : List Word} {w : Nat} {x : Word} (h : ws[w]? = some x) : wordAt ws w = x := by
    simp [wordAt, List.getD_eq_getElem?_getD, h]
  refine ⟨rfl, rfl, rfl, rfl, rfl, rfl, fun j x h => ?_, fun w x h => ?_, fun w x h => ?_, fun w x h => ?_⟩
  · rw [readReg, hslot h]
  · rw [readReg, hslot h]
  · rw [readReg, hslot h]
  · simp [readReg, hb, hslot h]

/-! ### The statements of 30_encoding.md -/

/-- Settles O1: an encoding is the command's own word, which decodes to it. -/
theorem decodeOfEncodeIsTheCommand : Obligations.DecodeOfEncodeIsTheCommand := by
  intro i _
  obtain ⟨hword, -, -⟩ := encodesTableWord i
  exact decode_eq_ok_iff.mpr hword

/-- Settles O3: eight words, each decoded by evaluation. -/
theorem tableWordsDecodeToTheirCommands : Obligations.TableWordsDecodeToTheirCommands := by
  unfold Obligations.TableWordsDecodeToTheirCommands
  decide

/-- Settles O4: the write of a command word, then any write and any read of a mapped register. -/
theorem stepRunsThePresentedCommand : Obligations.StepRunsThePresentedCommand :=
  ⟨fun _ _ _ _ _ _ hn hp hl hd _ => step_present hn hp hl hd,
    fun _ _ _ _ _ hn hl => ⟨fun _ hp => step_write hn hp hl, fun hp => step_read hn hp hl⟩⟩

/-- Settles O6: the word is the next transaction, a write to CMD, with the host's turn fixed before it. -/
theorem fetchedWordRunsAtTheNextStep : Obligations.FetchedWordRunsAtTheNextStep := by
  intro s nbits w i hc h
  exact step_present (s := s.withFetchWord nbits w) rfl rfl (locate_of_existsIn hc rfl) (decode_of_decodeTableWord h)

/-- Settles O51: the two cases of BUSY. -/
theorem pollRepeatsWhileBusy : Obligations.PollRepeatsWhileBusy := by
  intro s q rest hn hp
  rw [step_host hn, hostTurn_poll (s := { s with schedule := q, turn := .host }) hp]
  exact ⟨fun hb => congrArg _ (if_pos hb), fun hb => congrArg _ (if_neg (by simp [hb]))⟩

/-! ### The statements of 70_reset_and_hazards.md -/

/-- Settles O5: the engine's turn with BUSY = 1 and a command in CUR_OP. -/
theorem stepRunsTheCommandInFlight : Obligations.StepRunsTheCommandInFlight :=
  fun _ _ _ => step_in_flight

/-- Settles O54: either agent's turn with nothing to do. -/
theorem idleMachineStandsStill : Obligations.IdleMachineStandsStill := by
  refine fun s q => ⟨fun hn hb => ?_, fun hn hp => ?_⟩
  · rw [step_engine hn]
    simp [engineTurn, hb]
  · rw [step_host hn]
    simp only [hostTurn, hp]

/-- Settles O39: the step that presents the command, then the engine step that runs it. -/
theorem acceptedCommandsCompleteInOneEngineStep : Obligations.AcceptedCommandsCompleteInOneEngineStep := by
  intro s t i rest hi hc hsched hb hp hx he
  obtain ⟨hbusy, hop, hprog, hq⟩ :=
    exec_host_accepted (s := { s with schedule := [.engine], turn := .host, program := rest }) rfl hb hx he
  have hpresent : step s = .next t := by
    have hn : s.nextTurn = (.host, [.engine]) := by rw [State.nextTurn, hsched]
    rw [step_present hn hp (locate_of_existsIn hc rfl) (decode_eq_ok_iff.mpr rfl), hx]
  have hengine : exec i { t with schedule := [], turn := .engine } =
      .next (runOf i { t with schedule := [], turn := .engine }) := exec_engine _ i rfl
  have hrun : step t = .next (runOf i { t with schedule := [], turn := .engine }) := by
    have hn : t.nextTurn = (.engine, []) := by rw [State.nextTurn, hq]
    rw [step_in_flight hn hbusy hop, hengine]
  obtain ⟨hdone, hnone⟩ := runOf_completes (s := { t with schedule := [], turn := .engine }) hi
  refine ⟨_, ?_, hengine, hdone, hnone, ?_, ?_⟩
  · rw [core_run_next hpresent, core_run_next hrun, core_run_zero]
  · rw [runOf_frame]; exact he
  · rw [runOf_frame]; exact hprog

end Sys2Proof.Machine
